-- ==== Sys2Proof/Word.lean ====
section
/-! DEFINITION. The word types of the CORE block: sizes fixed by rule R7 (32-bit registers and addresses, 8-bit
bytes, 32-bit wide and 16-bit compressed instructions) and by the register fields of the two encodings. -/

namespace Sys2Proof

/-- A 32-bit register, address, status word or wide instruction (R7). -/
abbrev Word := BitVec 32

/-- A 16-bit half-word: a compressed instruction (R7). -/
abbrev Half := BitVec 16

/-- The smallest addressable unit (R7). -/
abbrev Byte := BitVec 8

/-- The number of a logical register, 0 to 15 (R20, R25: every register field is at most 4 bits). -/
abbrev Reg := BitVec 4

/-- A 3-bit register field of a compressed format: it names r0 to r7 (R300 (b)). -/
abbrev LowReg := BitVec 3

end Sys2Proof
end

