-- ==== Sys2Proof/Config.lean ====
section
/-! DEFINITION. The parameters of rule R8 at their default values, and the free values: constants without a body, one
for each place where the spec says `any value`. No proof can see what a free value is. -/

namespace Sys2Proof.Config

/-- PC_READ_WIDE (R8, R29, decision D3): a read of r15 in wide mode yields the instruction's address plus this. -/
def pcReadWide : Word := 8

/-- PC_READ_WIDE_REGSHIFT (R8, R29): the same with a register-specified shift amount, and for r15 as store data. -/
def pcReadWideRegShift : Word := 12

/-- PC_READ_COMPRESSED (R8, R29): the same in compressed mode. -/
def pcReadCompressed : Word := 4

/-- RESET_PC (R8, R42). -/
def resetPc : Word := 0

/-- RESET_CPSR (R8, R42): Supervisor, I = F = 1, T = 0; the condition flags 0 are a choice (log 2). -/
def resetCpsr : Word := 0x000000D3

/-- VEC_UNDEFINED (R8, R422). -/
def vecUndefined : Word := 0x00000004

/-- VEC_SWI (R8, R422). -/
def vecSwi : Word := 0x00000008

/-- ROM_BASE, the fixed cartridge base offset (R8, R71 (c)). The block itself assumes nothing about it. -/
def romBase : Word := 0x08000000

/-- What an address that memory does not list reads as (R71 (a): unmapped ranges return 0; for RAM that nothing has
written this is DESIGN CHOICE, log 5, unsafe). -/
def unlistedByte : Byte := 0

/-- The policies a model may set for the two tags the spec gives no meaning (R217, R396). -/
inductive Policy where
  /-- the default: the program has no meaning -/
  | refuse
  /-- executed as a no-op -/
  | noop
  /-- executed as UNDEFINED -/
  | undefinedTrap
  deriving DecidableEq, Repr

/-- MULHALF_POLICY (R8, R217, decision D14), at its default. -/
def mulhalfPolicy : Policy := .refuse

/-- BKPT_POLICY (R8, R396, decision D16), at its default. -/
def bkptPolicy : Policy := .refuse

/-- FREE VALUE: the C flag after a flag-setting multiply (R218, R325, log 9). -/
opaque mulCarry : Nat → Bool

/-- FREE VALUE: the V flag after a flag-setting long multiply (R218, log 9). -/
opaque mulOverflow : Nat → Bool

/-- FREE VALUE: the word a compressed-mode store of r15 writes (R384, log 10). -/
opaque storedPc : Nat → Word

/-- FREE VALUE: what a device answers to a byte load (R70, log 7); the arguments are the model's free-value counter
and the address. -/
opaque deviceByte : Nat → Word → Byte

end Sys2Proof.Config
end

