-- ==== Sys2Proof/Syntax.lean ====
section
/-! DEFINITION. The instructions: one constructor for each of the 148 rows of `spec/opcode_table.json`, in the table's
order, with the fields the row names. A compressed row's constructor begins with `c`. Immediates and offsets are the
encoded fields, before scaling and extension (R106, R132). -/

namespace Sys2Proof

/-- The sixteen values of a condition field (R170); `nv` is 0b1111. -/
inductive Cond where
  | eq | ne | cs | cc | mi | pl | vs | vc | hi | ls | ge | lt | gt | le | al | nv
  deriving DecidableEq, Repr

/-- The four shift kinds (R143). -/
inductive ShiftKind where
  | lsl | lsr | asr | ror
  deriving DecidableEq, Repr

/-- Which status word MRS and MSR name (R103: `psr` = 0 the CPSR, 1 the SPSR of the current mode). -/
inductive PsrSel where
  | cpsr | spsr
  deriving DecidableEq, Repr

/-- The sixteen data-processing operations (R104). -/
inductive DpOp where
  | and | eor | sub | rsb | add | adc | sbc | rsc | tst | teq | cmp | cmn | orr | mov | bic | mvn
  deriving DecidableEq, Repr

/-- The three forms of the second operand of data-processing (R104). -/
inductive Op2 where
  /-- rotated immediate -/
  | imm (rot : BitVec 4) (imm : BitVec 8)
  /-- register shifted by an immediate amount -/
  | shiftImm (shamt : BitVec 5) (kind : ShiftKind) (rm : Reg)
  /-- register shifted by a register -/
  | shiftReg (rs : Reg) (kind : ShiftKind) (rm : Reg)
  deriving DecidableEq, Repr

/-- The four single data transfers (R99). -/
inductive SingleOp where
  | ldr | str | ldrb | strb
  deriving DecidableEq, Repr

/-- The four half-word and signed transfers (R101). -/
inductive HalfOp where
  | ldrh | strh | ldrsb | ldrsh
  deriving DecidableEq, Repr

/-- The offset of a single, half-word or signed transfer (R99, R101). -/
inductive Offset where
  /-- an unsigned immediate, already widened -/
  | imm (v : Word)
  /-- a register shifted by an immediate amount -/
  | shifted (shamt : BitVec 5) (kind : ShiftKind) (rm : Reg)
  /-- an unshifted register -/
  | plain (rm : Reg)
  deriving DecidableEq, Repr

/-- The six multiplies with a meaning (R102). -/
inductive MulOp where
  | mul | mla | umull | umlal | smull | smlal
  deriving DecidableEq, Repr

/-- R46, D38: the closed list of instruction tags. Compressed instructions reuse the wide tags; BKPT, BLH1 and BLH2 are
theirs alone. The rule says 44 and lists these 45 names (log 26). -/
inductive Tag where
  | and | eor | sub | rsb | add | adc | sbc | rsc | tst | teq | cmp | cmn | orr | mov | bic | mvn
  | mul | mla | umull | umlal | smull | smlal | mulhalf
  | mrs | msr
  | ldr | str | ldrb | strb | ldrh | strh | ldrsb | ldrsh
  | ldm | stm
  | swp | swpb
  | b | bl | bx
  | swi | bkpt | blh1 | blh2 | undefined
  deriving DecidableEq, Repr

/-- The instructions of both decoders, one constructor per row of the opcode table. -/
inductive Instr where
  -- Wide branch-and-exchange, software interrupt, branches (R96 to R98)
  | bx (cond : Cond) (rn : Reg)
  | swi (cond : Cond) (comment : BitVec 24)
  | b (cond : Cond) (offset : BitVec 24)
  | bl (cond : Cond) (offset : BitVec 24)
  -- Wide single data transfer (R99): P, U, W, base, data register, offset
  | ldrImm (cond : Cond) (p u w : Bool) (rn rd : Reg) (imm : BitVec 12)
  | ldrReg (cond : Cond) (p u w : Bool) (rn rd : Reg) (shamt : BitVec 5) (kind : ShiftKind) (rm : Reg)
  | strImm (cond : Cond) (p u w : Bool) (rn rd : Reg) (imm : BitVec 12)
  | strReg (cond : Cond) (p u w : Bool) (rn rd : Reg) (shamt : BitVec 5) (kind : ShiftKind) (rm : Reg)
  | ldrbImm (cond : Cond) (p u w : Bool) (rn rd : Reg) (imm : BitVec 12)
  | ldrbReg (cond : Cond) (p u w : Bool) (rn rd : Reg) (shamt : BitVec 5) (kind : ShiftKind) (rm : Reg)
  | strbImm (cond : Cond) (p u w : Bool) (rn rd : Reg) (imm : BitVec 12)
  | strbReg (cond : Cond) (p u w : Bool) (rn rd : Reg) (shamt : BitVec 5) (kind : ShiftKind) (rm : Reg)
  -- Wide block data transfer (R100): `sb` is the S bit
  | ldm (cond : Cond) (p u sb w : Bool) (rn : Reg) (rlist : BitVec 16)
  | stm (cond : Cond) (p u sb w : Bool) (rn : Reg) (rlist : BitVec 16)
  -- Wide swap (R101)
  | swp (cond : Cond) (rn rd rm : Reg)
  | swpb (cond : Cond) (rn rd rm : Reg)
  -- Wide half-word and signed transfer (R101): `imm` is imm_hi : imm_lo
  | ldrhImm (cond : Cond) (p u w : Bool) (rn rd : Reg) (imm : BitVec 8)
  | ldrhReg (cond : Cond) (p u w : Bool) (rn rd rm : Reg)
  | strhImm (cond : Cond) (p u w : Bool) (rn rd : Reg) (imm : BitVec 8)
  | strhReg (cond : Cond) (p u w : Bool) (rn rd rm : Reg)
  | ldrsbImm (cond : Cond) (p u w : Bool) (rn rd : Reg) (imm : BitVec 8)
  | ldrsbReg (cond : Cond) (p u w : Bool) (rn rd rm : Reg)
  | ldrshImm (cond : Cond) (p u w : Bool) (rn rd : Reg) (imm : BitVec 8)
  | ldrshReg (cond : Cond) (p u w : Bool) (rn rd rm : Reg)
  -- Wide multiply (R102): `rd` is bits 19:16, `rn` bits 15:12; for the long forms rd is RdHi, rn RdLo
  | mul (cond : Cond) (sf : Bool) (rd rn rs rm : Reg)
  | mla (cond : Cond) (sf : Bool) (rd rn rs rm : Reg)
  | umull (cond : Cond) (sf : Bool) (rd rn rs rm : Reg)
  | umlal (cond : Cond) (sf : Bool) (rd rn rs rm : Reg)
  | smull (cond : Cond) (sf : Bool) (rd rn rs rm : Reg)
  | smlal (cond : Cond) (sf : Bool) (rd rn rs rm : Reg)
  | mulhalf (cond : Cond) (rd rn rs rm : Reg) (hiOp hiYx : BitVec 2)
  -- Wide status register transfer (R103)
  | mrs (cond : Cond) (psr : PsrSel) (rd : Reg)
  | msrReg (cond : Cond) (psr : PsrSel) (fmask : BitVec 4) (rm : Reg)
  | msrImm (cond : Cond) (psr : PsrSel) (fmask rot : BitVec 4) (imm : BitVec 8)
  -- Wide data-processing (R104), three forms of the second operand each
  | andImm (cond : Cond) (sf : Bool) (rn rd : Reg) (rot : BitVec 4) (imm : BitVec 8)
  | andShiftImm (cond : Cond) (sf : Bool) (rn rd : Reg) (shamt : BitVec 5) (kind : ShiftKind) (rm : Reg)
  | andShiftReg (cond : Cond) (sf : Bool) (rn rd rs : Reg) (kind : ShiftKind) (rm : Reg)
  | eorImm (cond : Cond) (sf : Bool) (rn rd : Reg) (rot : BitVec 4) (imm : BitVec 8)
  | eorShiftImm (cond : Cond) (sf : Bool) (rn rd : Reg) (shamt : BitVec 5) (kind : ShiftKind) (rm : Reg)
  | eorShiftReg (cond : Cond) (sf : Bool) (rn rd rs : Reg) (kind : ShiftKind) (rm : Reg)
  | subImm (cond : Cond) (sf : Bool) (rn rd : Reg) (rot : BitVec 4) (imm : BitVec 8)
  | subShiftImm (cond : Cond) (sf : Bool) (rn rd : Reg) (shamt : BitVec 5) (kind : ShiftKind) (rm : Reg)
  | subShiftReg (cond : Cond) (sf : Bool) (rn rd rs : Reg) (kind : ShiftKind) (rm : Reg)
  | rsbImm (cond : Cond) (sf : Bool) (rn rd : Reg) (rot : BitVec 4) (imm : BitVec 8)
  | rsbShiftImm (cond : Cond) (sf : Bool) (rn rd : Reg) (shamt : BitVec 5) (kind : ShiftKind) (rm : Reg)
  | rsbShiftReg (cond : Cond) (sf : Bool) (rn rd rs : Reg) (kind : ShiftKind) (rm : Reg)
  | addImm (cond : Cond) (sf : Bool) (rn rd : Reg) (rot : BitVec 4) (imm : BitVec 8)
  | addShiftImm (cond : Cond) (sf : Bool) (rn rd : Reg) (shamt : BitVec 5) (kind : ShiftKind) (rm : Reg)
  | addShiftReg (cond : Cond) (sf : Bool) (rn rd rs : Reg) (kind : ShiftKind) (rm : Reg)
  | adcImm (cond : Cond) (sf : Bool) (rn rd : Reg) (rot : BitVec 4) (imm : BitVec 8)
  | adcShiftImm (cond : Cond) (sf : Bool) (rn rd : Reg) (shamt : BitVec 5) (kind : ShiftKind) (rm : Reg)
  | adcShiftReg (cond : Cond) (sf : Bool) (rn rd rs : Reg) (kind : ShiftKind) (rm : Reg)
  | sbcImm (cond : Cond) (sf : Bool) (rn rd : Reg) (rot : BitVec 4) (imm : BitVec 8)
  | sbcShiftImm (cond : Cond) (sf : Bool) (rn rd : Reg) (shamt : BitVec 5) (kind : ShiftKind) (rm : Reg)
  | sbcShiftReg (cond : Cond) (sf : Bool) (rn rd rs : Reg) (kind : ShiftKind) (rm : Reg)
  | rscImm (cond : Cond) (sf : Bool) (rn rd : Reg) (rot : BitVec 4) (imm : BitVec 8)
  | rscShiftImm (cond : Cond) (sf : Bool) (rn rd : Reg) (shamt : BitVec 5) (kind : ShiftKind) (rm : Reg)
  | rscShiftReg (cond : Cond) (sf : Bool) (rn rd rs : Reg) (kind : ShiftKind) (rm : Reg)
  | tstImm (cond : Cond) (sf : Bool) (rn rd : Reg) (rot : BitVec 4) (imm : BitVec 8)
  | tstShiftImm (cond : Cond) (sf : Bool) (rn rd : Reg) (shamt : BitVec 5) (kind : ShiftKind) (rm : Reg)
  | tstShiftReg (cond : Cond) (sf : Bool) (rn rd rs : Reg) (kind : ShiftKind) (rm : Reg)
  | teqImm (cond : Cond) (sf : Bool) (rn rd : Reg) (rot : BitVec 4) (imm : BitVec 8)
  | teqShiftImm (cond : Cond) (sf : Bool) (rn rd : Reg) (shamt : BitVec 5) (kind : ShiftKind) (rm : Reg)
  | teqShiftReg (cond : Cond) (sf : Bool) (rn rd rs : Reg) (kind : ShiftKind) (rm : Reg)
  | cmpImm (cond : Cond) (sf : Bool) (rn rd : Reg) (rot : BitVec 4) (imm : BitVec 8)
  | cmpShiftImm (cond : Cond) (sf : Bool) (rn rd : Reg) (shamt : BitVec 5) (kind : ShiftKind) (rm : Reg)
  | cmpShiftReg (cond : Cond) (sf : Bool) (rn rd rs : Reg) (kind : ShiftKind) (rm : Reg)
  | cmnImm (cond : Cond) (sf : Bool) (rn rd : Reg) (rot : BitVec 4) (imm : BitVec 8)
  | cmnShiftImm (cond : Cond) (sf : Bool) (rn rd : Reg) (shamt : BitVec 5) (kind : ShiftKind) (rm : Reg)
  | cmnShiftReg (cond : Cond) (sf : Bool) (rn rd rs : Reg) (kind : ShiftKind) (rm : Reg)
  | orrImm (cond : Cond) (sf : Bool) (rn rd : Reg) (rot : BitVec 4) (imm : BitVec 8)
  | orrShiftImm (cond : Cond) (sf : Bool) (rn rd : Reg) (shamt : BitVec 5) (kind : ShiftKind) (rm : Reg)
  | orrShiftReg (cond : Cond) (sf : Bool) (rn rd rs : Reg) (kind : ShiftKind) (rm : Reg)
  | movImm (cond : Cond) (sf : Bool) (rn rd : Reg) (rot : BitVec 4) (imm : BitVec 8)
  | movShiftImm (cond : Cond) (sf : Bool) (rn rd : Reg) (shamt : BitVec 5) (kind : ShiftKind) (rm : Reg)
  | movShiftReg (cond : Cond) (sf : Bool) (rn rd rs : Reg) (kind : ShiftKind) (rm : Reg)
  | bicImm (cond : Cond) (sf : Bool) (rn rd : Reg) (rot : BitVec 4) (imm : BitVec 8)
  | bicShiftImm (cond : Cond) (sf : Bool) (rn rd : Reg) (shamt : BitVec 5) (kind : ShiftKind) (rm : Reg)
  | bicShiftReg (cond : Cond) (sf : Bool) (rn rd rs : Reg) (kind : ShiftKind) (rm : Reg)
  | mvnImm (cond : Cond) (sf : Bool) (rn rd : Reg) (rot : BitVec 4) (imm : BitVec 8)
  | mvnShiftImm (cond : Cond) (sf : Bool) (rn rd : Reg) (shamt : BitVec 5) (kind : ShiftKind) (rm : Reg)
  | mvnShiftReg (cond : Cond) (sf : Bool) (rn rd rs : Reg) (kind : ShiftKind) (rm : Reg)
  -- Wide words that no step classifies (R105)
  | undefined (cond : Cond)
  -- Compressed format 1 (R112)
  | cLslImm (shamt : BitVec 5) (rm rd : LowReg)
  | cLsrImm (shamt : BitVec 5) (rm rd : LowReg)
  | cAsrImm (shamt : BitVec 5) (rm rd : LowReg)
  -- Compressed format 2 (R113)
  | cAddReg (rm rn rd : LowReg)
  | cAddImm3 (imm : BitVec 3) (rn rd : LowReg)
  | cSubReg (rm rn rd : LowReg)
  | cSubImm3 (imm : BitVec 3) (rn rd : LowReg)
  -- Compressed format 3 (R114)
  | cMovImm8 (rd : LowReg) (imm : BitVec 8)
  | cCmpImm8 (rd : LowReg) (imm : BitVec 8)
  | cAddImm8 (rd : LowReg) (imm : BitVec 8)
  | cSubImm8 (rd : LowReg) (imm : BitVec 8)
  -- Compressed format 4 (R115): `rs` is h[5:3], `rd` h[2:0]
  | cAnd (rs rd : LowReg)
  | cEor (rs rd : LowReg)
  | cLslReg (rs rd : LowReg)
  | cLsrReg (rs rd : LowReg)
  | cAsrReg (rs rd : LowReg)
  | cAdc (rs rd : LowReg)
  | cSbc (rs rd : LowReg)
  | cRorReg (rs rd : LowReg)
  | cTst (rs rd : LowReg)
  | cNeg (rs rd : LowReg)
  | cCmp (rs rd : LowReg)
  | cCmn (rs rd : LowReg)
  | cOrr (rs rd : LowReg)
  | cMul (rs rd : LowReg)
  | cBic (rs rd : LowReg)
  | cMvn (rs rd : LowReg)
  -- Compressed format 5 (R116): full register numbers
  | cAddHi (rs rd : Reg)
  | cCmpHi (rs rd : Reg)
  | cMovHi (rs rd : Reg)
  | cBx (rs : Reg)
  -- Compressed format 6 (R117)
  | cLdrPc (rd : LowReg) (imm : BitVec 8)
  -- Compressed format 7 (R118)
  | cStrReg (rm rn rd : LowReg)
  | cStrbReg (rm rn rd : LowReg)
  | cLdrReg (rm rn rd : LowReg)
  | cLdrbReg (rm rn rd : LowReg)
  -- Compressed format 8 (R119)
  | cStrhReg (rm rn rd : LowReg)
  | cLdrsbReg (rm rn rd : LowReg)
  | cLdrhReg (rm rn rd : LowReg)
  | cLdrshReg (rm rn rd : LowReg)
  -- Compressed format 9 (R120)
  | cStrImm (imm : BitVec 5) (rn rd : LowReg)
  | cLdrImm (imm : BitVec 5) (rn rd : LowReg)
  | cStrbImm (imm : BitVec 5) (rn rd : LowReg)
  | cLdrbImm (imm : BitVec 5) (rn rd : LowReg)
  -- Compressed format 10 (R121)
  | cStrhImm (imm : BitVec 5) (rn rd : LowReg)
  | cLdrhImm (imm : BitVec 5) (rn rd : LowReg)
  -- Compressed format 11 (R122)
  | cStrSp (rd : LowReg) (imm : BitVec 8)
  | cLdrSp (rd : LowReg) (imm : BitVec 8)
  -- Compressed format 12 (R123)
  | cAddPc (rd : LowReg) (imm : BitVec 8)
  | cAddSp (rd : LowReg) (imm : BitVec 8)
  -- Compressed format 13 (R124)
  | cAddSpImm (imm : BitVec 7)
  | cSubSpImm (imm : BitVec 7)
  -- Compressed format 14 (R125): `r` adds r14 or r15 to the list
  | cPush (r : Bool) (rlist : BitVec 8)
  | cPop (r : Bool) (rlist : BitVec 8)
  -- Compressed format 15 (R126)
  | cStmia (rn : LowReg) (rlist : BitVec 8)
  | cLdmia (rn : LowReg) (rlist : BitVec 8)
  -- Compressed format 16 (R127), the three rows of R136: conditions 0 to 7, 8 to 11, 12 and 13
  | cBcond0 (cond : Cond) (offset : BitVec 8)
  | cBcond8 (cond : Cond) (offset : BitVec 8)
  | cBcondC (cond : Cond) (offset : BitVec 8)
  -- Compressed format 17 (R128)
  | cSwi (comment : BitVec 8)
  | cBkpt (comment : BitVec 8)
  -- Compressed format 18 (R129)
  | cB (offset : BitVec 11)
  -- Compressed format 19, its two halves (R130)
  | cBlh1 (offset : BitVec 11)
  | cBlh2 (imm : BitVec 11)
  -- Compressed words outside the 19 formats (R131)
  | cUndefined
  deriving DecidableEq, Repr

end Sys2Proof
end

