-- ==== Sys2Proof/WellFormed.lean ====
section
/-! DEFINITION. Well-formed instructions: the field values that the row's encoding can carry. Every field is a bit
vector of the encoded width, so the only checks are those where the ordered classification of rule R92 sends some
field values to another row (R107: TST, TEQ, CMP and CMN with S = 0 belong to the status register transfer unless they
are the immediate form with bit 21 = 0) and the three condition ranges of the compressed conditional branch (R136). -/

namespace Sys2Proof

/-- The four bits of a condition field (R170). -/
def Cond.toBits : Cond → BitVec 4
  | .eq => 0b0000 | .ne => 0b0001 | .cs => 0b0010 | .cc => 0b0011
  | .mi => 0b0100 | .pl => 0b0101 | .vs => 0b0110 | .vc => 0b0111
  | .hi => 0b1000 | .ls => 0b1001 | .ge => 0b1010 | .lt => 0b1011
  | .gt => 0b1100 | .le => 0b1101 | .al => 0b1110 | .nv => 0b1111

/-- The field values a row's encoding can carry. -/
def Instr.wf : Instr → Bool
  | .bx .. | .swi .. | .b .. | .bl .. | .ldrImm .. | .ldrReg .. | .strImm .. | .strReg .. | .ldrbImm ..
  | .ldrbReg .. | .strbImm .. | .strbReg .. | .ldm .. | .stm .. | .swp .. | .swpb .. | .ldrhImm ..
  | .ldrhReg .. | .strhImm .. | .strhReg .. | .ldrsbImm .. | .ldrsbReg .. | .ldrshImm .. | .ldrshReg ..
  | .mul .. | .mla .. | .umull .. | .umlal .. | .smull .. | .smlal .. | .mulhalf .. | .mrs .. | .msrReg ..
  | .msrImm .. | .andImm .. | .andShiftImm .. | .andShiftReg .. | .eorImm .. | .eorShiftImm ..
  | .eorShiftReg .. | .subImm .. | .subShiftImm .. | .subShiftReg .. | .rsbImm .. | .rsbShiftImm ..
  | .rsbShiftReg .. | .addImm .. | .addShiftImm .. | .addShiftReg .. | .adcImm .. | .adcShiftImm ..
  | .adcShiftReg .. | .sbcImm .. | .sbcShiftImm .. | .sbcShiftReg .. | .rscImm .. | .rscShiftImm ..
  | .rscShiftReg .. | .tstImm .. => true
  | .tstShiftImm _ sf _ _ _ _ _ => sf
  | .tstShiftReg _ sf _ _ _ _ _ => sf
  | .teqImm _ sf _ _ _ _ => sf
  | .teqShiftImm _ sf _ _ _ _ _ => sf
  | .teqShiftReg _ sf _ _ _ _ _ => sf
  | .cmpImm .. => true
  | .cmpShiftImm _ sf _ _ _ _ _ => sf
  | .cmpShiftReg _ sf _ _ _ _ _ => sf
  | .cmnImm _ sf _ _ _ _ => sf
  | .cmnShiftImm _ sf _ _ _ _ _ => sf
  | .cmnShiftReg _ sf _ _ _ _ _ => sf
  | .orrImm .. | .orrShiftImm .. | .orrShiftReg .. | .movImm .. | .movShiftImm .. | .movShiftReg ..
  | .bicImm .. | .bicShiftImm .. | .bicShiftReg .. | .mvnImm .. | .mvnShiftImm .. | .mvnShiftReg ..
  | .undefined .. | .cLslImm .. | .cLsrImm .. | .cAsrImm .. | .cAddReg .. | .cAddImm3 .. | .cSubReg ..
  | .cSubImm3 .. | .cMovImm8 .. | .cCmpImm8 .. | .cAddImm8 .. | .cSubImm8 .. | .cAnd .. | .cEor ..
  | .cLslReg .. | .cLsrReg .. | .cAsrReg .. | .cAdc .. | .cSbc .. | .cRorReg .. | .cTst .. | .cNeg ..
  | .cCmp .. | .cCmn .. | .cOrr .. | .cMul .. | .cBic .. | .cMvn .. | .cAddHi .. | .cCmpHi .. | .cMovHi ..
  | .cBx .. | .cLdrPc .. | .cStrReg .. | .cStrbReg .. | .cLdrReg .. | .cLdrbReg .. | .cStrhReg ..
  | .cLdrsbReg .. | .cLdrhReg .. | .cLdrshReg .. | .cStrImm .. | .cLdrImm .. | .cStrbImm .. | .cLdrbImm ..
  | .cStrhImm .. | .cLdrhImm .. | .cStrSp .. | .cLdrSp .. | .cAddPc .. | .cAddSp .. | .cAddSpImm ..
  | .cSubSpImm .. | .cPush .. | .cPop .. | .cStmia .. | .cLdmia .. => true
  | .cBcond0 cond _ => cond.toBits.ult 8
  | .cBcond8 cond _ => (8#4).ule cond.toBits && cond.toBits.ult 12
  | .cBcondC cond _ => (12#4).ule cond.toBits && cond.toBits.ult 14
  | .cSwi .. | .cBkpt .. | .cB .. | .cBlh1 .. | .cBlh2 .. | .cUndefined => true

/-- The instructions of the wide decoder; the others are the compressed decoder's (R90). -/
def Instr.isWide : Instr → Bool
  | .bx .. | .swi .. | .b .. | .bl .. | .ldrImm .. | .ldrReg .. | .strImm .. | .strReg .. | .ldrbImm ..
  | .ldrbReg .. | .strbImm .. | .strbReg .. | .ldm .. | .stm .. | .swp .. | .swpb .. | .ldrhImm ..
  | .ldrhReg .. | .strhImm .. | .strhReg .. | .ldrsbImm .. | .ldrsbReg .. | .ldrshImm .. | .ldrshReg ..
  | .mul .. | .mla .. | .umull .. | .umlal .. | .smull .. | .smlal .. | .mulhalf .. | .mrs .. | .msrReg ..
  | .msrImm .. | .andImm .. | .andShiftImm .. | .andShiftReg .. | .eorImm .. | .eorShiftImm ..
  | .eorShiftReg .. | .subImm .. | .subShiftImm .. | .subShiftReg .. | .rsbImm .. | .rsbShiftImm ..
  | .rsbShiftReg .. | .addImm .. | .addShiftImm .. | .addShiftReg .. | .adcImm .. | .adcShiftImm ..
  | .adcShiftReg .. | .sbcImm .. | .sbcShiftImm .. | .sbcShiftReg .. | .rscImm .. | .rscShiftImm ..
  | .rscShiftReg .. | .tstImm .. | .tstShiftImm .. | .tstShiftReg .. | .teqImm .. | .teqShiftImm ..
  | .teqShiftReg .. | .cmpImm .. | .cmpShiftImm .. | .cmpShiftReg .. | .cmnImm .. | .cmnShiftImm ..
  | .cmnShiftReg .. | .orrImm .. | .orrShiftImm .. | .orrShiftReg .. | .movImm .. | .movShiftImm ..
  | .movShiftReg .. | .bicImm .. | .bicShiftImm .. | .bicShiftReg .. | .mvnImm .. | .mvnShiftImm ..
  | .mvnShiftReg .. | .undefined .. => true
  | .cLslImm .. | .cLsrImm .. | .cAsrImm .. | .cAddReg .. | .cAddImm3 .. | .cSubReg .. | .cSubImm3 ..
  | .cMovImm8 .. | .cCmpImm8 .. | .cAddImm8 .. | .cSubImm8 .. | .cAnd .. | .cEor .. | .cLslReg .. | .cLsrReg ..
  | .cAsrReg .. | .cAdc .. | .cSbc .. | .cRorReg .. | .cTst .. | .cNeg .. | .cCmp .. | .cCmn .. | .cOrr ..
  | .cMul .. | .cBic .. | .cMvn .. | .cAddHi .. | .cCmpHi .. | .cMovHi .. | .cBx .. | .cLdrPc .. | .cStrReg ..
  | .cStrbReg .. | .cLdrReg .. | .cLdrbReg .. | .cStrhReg .. | .cLdrsbReg .. | .cLdrhReg .. | .cLdrshReg ..
  | .cStrImm .. | .cLdrImm .. | .cStrbImm .. | .cLdrbImm .. | .cStrhImm .. | .cLdrhImm .. | .cStrSp ..
  | .cLdrSp .. | .cAddPc .. | .cAddSp .. | .cAddSpImm .. | .cSubSpImm .. | .cPush .. | .cPop .. | .cStmia ..
  | .cLdmia .. | .cBcond0 .. | .cBcond8 .. | .cBcondC .. | .cSwi .. | .cBkpt .. | .cB .. | .cBlh1 ..
  | .cBlh2 .. | .cUndefined => false

end Sys2Proof
end

