-- ==== Sys2Proof/Decode.lean ====
section
/-! DEFINITION. The bit-field extractor (R140 to R143), the two decoders (R90 to R132), both total, and after them the
encoder, written from the same layouts. A byte string that is too short for one instruction is rejected by name; every
word of full length decodes, to the UNDEFINED record where no family takes it (R94, R131). -/

namespace Sys2Proof

/-! ## Bit-field extractor -/

/-- R140: the single bit `i` of a word. -/
def bit {n : Nat} (w : BitVec n) (i : Nat) : Bool := w.getLsbD i

/-- R141: the run of bits `hi` down to `lo`, both inclusive, right-aligned and zero-extended. The result's width is the
field's own, `hi + 1 - lo` wherever a rule uses it. -/
def bits {n len : Nat} (w : BitVec n) (hi lo : Nat) : BitVec len :=
  (w.extractLsb' lo (hi + 1 - lo)).setWidth len

/-- R143: the shift kind of a 2-bit field. -/
def ShiftKind.ofBits (f : BitVec 2) : ShiftKind :=
  if f = 0b00#2 then .lsl else if f = 0b01#2 then .lsr else if f = 0b10#2 then .asr else .ror

/-- R143, the other direction. -/
def ShiftKind.toBits : ShiftKind → BitVec 2
  | .lsl => 0b00 | .lsr => 0b01 | .asr => 0b10 | .ror => 0b11

/-- R170: the condition of a 4-bit field. -/
def Cond.ofBits (f : BitVec 4) : Cond :=
  match f.toNat with
  | 0 => .eq | 1 => .ne | 2 => .cs | 3 => .cc | 4 => .mi | 5 => .pl | 6 => .vs | 7 => .vc
  | 8 => .hi | 9 => .ls | 10 => .ge | 11 => .lt | 12 => .gt | 13 => .le | 14 => .al | _ => .nv

/-- R103: bit 22 of a status register transfer. -/
def PsrSel.ofBit : Bool → PsrSel
  | false => .cpsr | true => .spsr

/-- R103, the other direction. -/
def PsrSel.toBit : PsrSel → Bool
  | .cpsr => false | .spsr => true

/-- R104: the operation of the opcode field. -/
def DpOp.ofBits (f : BitVec 4) : DpOp :=
  match f.toNat with
  | 0 => .and | 1 => .eor | 2 => .sub | 3 => .rsb | 4 => .add | 5 => .adc | 6 => .sbc | 7 => .rsc
  | 8 => .tst | 9 => .teq | 10 => .cmp | 11 => .cmn | 12 => .orr | 13 => .mov | 14 => .bic | _ => .mvn

/-- R104: the opcode field of an operation. -/
def DpOp.toBits : DpOp → BitVec 4
  | .and => 0 | .eor => 1 | .sub => 2 | .rsb => 3 | .add => 4 | .adc => 5 | .sbc => 6 | .rsc => 7
  | .tst => 8 | .teq => 9 | .cmp => 10 | .cmn => 11 | .orr => 12 | .mov => 13 | .bic => 14 | .mvn => 15

/-! ## From a family's record to its row's constructor -/

/-- The data-processing instruction of an operation and a second-operand form (R104). -/
def DpOp.instr (op : DpOp) (cond : Cond) (sf : Bool) (rn rd : Reg) : Op2 → Instr
  | .imm rot imm => match op with
    | .and => .andImm cond sf rn rd rot imm
    | .eor => .eorImm cond sf rn rd rot imm
    | .sub => .subImm cond sf rn rd rot imm
    | .rsb => .rsbImm cond sf rn rd rot imm
    | .add => .addImm cond sf rn rd rot imm
    | .adc => .adcImm cond sf rn rd rot imm
    | .sbc => .sbcImm cond sf rn rd rot imm
    | .rsc => .rscImm cond sf rn rd rot imm
    | .tst => .tstImm cond sf rn rd rot imm
    | .teq => .teqImm cond sf rn rd rot imm
    | .cmp => .cmpImm cond sf rn rd rot imm
    | .cmn => .cmnImm cond sf rn rd rot imm
    | .orr => .orrImm cond sf rn rd rot imm
    | .mov => .movImm cond sf rn rd rot imm
    | .bic => .bicImm cond sf rn rd rot imm
    | .mvn => .mvnImm cond sf rn rd rot imm
  | .shiftImm shamt kind rm => match op with
    | .and => .andShiftImm cond sf rn rd shamt kind rm
    | .eor => .eorShiftImm cond sf rn rd shamt kind rm
    | .sub => .subShiftImm cond sf rn rd shamt kind rm
    | .rsb => .rsbShiftImm cond sf rn rd shamt kind rm
    | .add => .addShiftImm cond sf rn rd shamt kind rm
    | .adc => .adcShiftImm cond sf rn rd shamt kind rm
    | .sbc => .sbcShiftImm cond sf rn rd shamt kind rm
    | .rsc => .rscShiftImm cond sf rn rd shamt kind rm
    | .tst => .tstShiftImm cond sf rn rd shamt kind rm
    | .teq => .teqShiftImm cond sf rn rd shamt kind rm
    | .cmp => .cmpShiftImm cond sf rn rd shamt kind rm
    | .cmn => .cmnShiftImm cond sf rn rd shamt kind rm
    | .orr => .orrShiftImm cond sf rn rd shamt kind rm
    | .mov => .movShiftImm cond sf rn rd shamt kind rm
    | .bic => .bicShiftImm cond sf rn rd shamt kind rm
    | .mvn => .mvnShiftImm cond sf rn rd shamt kind rm
  | .shiftReg rs kind rm => match op with
    | .and => .andShiftReg cond sf rn rd rs kind rm
    | .eor => .eorShiftReg cond sf rn rd rs kind rm
    | .sub => .subShiftReg cond sf rn rd rs kind rm
    | .rsb => .rsbShiftReg cond sf rn rd rs kind rm
    | .add => .addShiftReg cond sf rn rd rs kind rm
    | .adc => .adcShiftReg cond sf rn rd rs kind rm
    | .sbc => .sbcShiftReg cond sf rn rd rs kind rm
    | .rsc => .rscShiftReg cond sf rn rd rs kind rm
    | .tst => .tstShiftReg cond sf rn rd rs kind rm
    | .teq => .teqShiftReg cond sf rn rd rs kind rm
    | .cmp => .cmpShiftReg cond sf rn rd rs kind rm
    | .cmn => .cmnShiftReg cond sf rn rd rs kind rm
    | .orr => .orrShiftReg cond sf rn rd rs kind rm
    | .mov => .movShiftReg cond sf rn rd rs kind rm
    | .bic => .bicShiftReg cond sf rn rd rs kind rm
    | .mvn => .mvnShiftReg cond sf rn rd rs kind rm

/-- The single transfer with an immediate offset (R99). -/
def SingleOp.instrImm (op : SingleOp) (cond : Cond) (p u w : Bool) (rn rd : Reg) (imm : BitVec 12) : Instr :=
  match op with
  | .ldr => .ldrImm cond p u w rn rd imm
  | .str => .strImm cond p u w rn rd imm
  | .ldrb => .ldrbImm cond p u w rn rd imm
  | .strb => .strbImm cond p u w rn rd imm

/-- The single transfer with a shifted register offset (R99). -/
def SingleOp.instrReg (op : SingleOp) (cond : Cond) (p u w : Bool) (rn rd : Reg) (shamt : BitVec 5) (kind : ShiftKind)
    (rm : Reg) : Instr :=
  match op with
  | .ldr => .ldrReg cond p u w rn rd shamt kind rm
  | .str => .strReg cond p u w rn rd shamt kind rm
  | .ldrb => .ldrbReg cond p u w rn rd shamt kind rm
  | .strb => .strbReg cond p u w rn rd shamt kind rm

/-- The half-word or signed transfer with an immediate offset (R101). -/
def HalfOp.instrImm (op : HalfOp) (cond : Cond) (p u w : Bool) (rn rd : Reg) (imm : BitVec 8) : Instr :=
  match op with
  | .ldrh => .ldrhImm cond p u w rn rd imm
  | .strh => .strhImm cond p u w rn rd imm
  | .ldrsb => .ldrsbImm cond p u w rn rd imm
  | .ldrsh => .ldrshImm cond p u w rn rd imm

/-- The half-word or signed transfer with a register offset (R101). -/
def HalfOp.instrReg (op : HalfOp) (cond : Cond) (p u w : Bool) (rn rd rm : Reg) : Instr :=
  match op with
  | .ldrh => .ldrhReg cond p u w rn rd rm
  | .strh => .strhReg cond p u w rn rd rm
  | .ldrsb => .ldrsbReg cond p u w rn rd rm
  | .ldrsh => .ldrshReg cond p u w rn rd rm

/-- The multiply with a meaning (R102). -/
def MulOp.instr (op : MulOp) (cond : Cond) (sf : Bool) (rd rn rs rm : Reg) : Instr :=
  match op with
  | .mul => .mul cond sf rd rn rs rm
  | .mla => .mla cond sf rd rn rs rm
  | .umull => .umull cond sf rd rn rs rm
  | .umlal => .umlal cond sf rd rn rs rm
  | .smull => .smull cond sf rd rn rs rm
  | .smlal => .smlal cond sf rd rn rs rm

/-! ## Wide decoder (R91 to R107) -/

/-- R104: the second operand, bits 11:0, with I = bit 25; bit 7 of the register-shift form is ignored (R107). -/
def decodeOp2 (w : Word) : Op2 :=
  if bit w 25 then .imm (bits w 11 8) (bits w 7 0)
  else if bit w 4 then .shiftReg (bits w 11 8) (ShiftKind.ofBits (bits w 6 5)) (bits w 3 0)
  else .shiftImm (bits w 11 7) (ShiftKind.ofBits (bits w 6 5)) (bits w 3 0)

/-- R104: data-processing (step 8). -/
def decodeDataProcessing (cond : Cond) (w : Word) : Instr :=
  (DpOp.ofBits (bits w 24 21)).instr cond (bit w 20) (bits w 19 16) (bits w 15 12) (decodeOp2 w)

/-- R99: the operation of B (bit 22) and L (bit 20). -/
def SingleOp.ofBits (b l : Bool) : SingleOp :=
  if b then (if l then .ldrb else .strb) else (if l then .ldr else .str)

/-- R99: single data transfer (step 4); bit 4 of the register form is ignored (D32). -/
def decodeSingle (cond : Cond) (w : Word) : Instr :=
  let op := SingleOp.ofBits (bit w 22) (bit w 20)
  if bit w 25 then
    op.instrReg cond (bit w 24) (bit w 23) (bit w 21) (bits w 19 16) (bits w 15 12) (bits w 11 7)
      (ShiftKind.ofBits (bits w 6 5)) (bits w 3 0)
  else
    op.instrImm cond (bit w 24) (bit w 23) (bit w 21) (bits w 19 16) (bits w 15 12) (bits w 11 0)

/-- R100: block data transfer (step 4). -/
def decodeBlock (cond : Cond) (w : Word) : Instr :=
  if bit w 20 then .ldm cond (bit w 24) (bit w 23) (bit w 22) (bit w 21) (bits w 19 16) (bits w 15 0)
  else .stm cond (bit w 24) (bit w 23) (bit w 22) (bit w 21) (bits w 19 16) (bits w 15 0)

/-- R93 (a): the swap pattern, bits 27:23 = 00010, 21:20 = 00, 11:4 = 0000_1001. -/
def isSwap (w : Word) : Bool :=
  (bits w 27 23 : BitVec 5) == 0b00010#5 && !bit w 21 && !bit w 20 && (bits w 11 8 : BitVec 4) == 0#4
    && bit w 7 && (bits w 6 5 : BitVec 2) == 0b00#2 && bit w 4

/-- R93 (a): the half-word pattern (bits 6:5 = 01) or the signed load pattern (bit 6 = 1, bit 20 = 1), both with bits
27:25 = 000 and bits 7 and 4 set. -/
def isHalfOrSigned (w : Word) : Bool :=
  (bits w 27 25 : BitVec 3) == 0b000#3 && bit w 7 && bit w 4
    && ((bits w 6 5 : BitVec 2) == 0b01#2 || (bit w 6 && bit w 20))

/-- R101: swap. -/
def decodeSwap (cond : Cond) (w : Word) : Instr :=
  if bit w 22 then .swpb cond (bits w 19 16) (bits w 15 12) (bits w 3 0)
  else .swp cond (bits w 19 16) (bits w 15 12) (bits w 3 0)

/-- R101: the operation of SH (bits 6:5) and L (bit 20). -/
def HalfOp.ofBits (sh : BitVec 2) (l : Bool) : HalfOp :=
  if sh = 0b01#2 then (if l then .ldrh else .strh) else if sh = 0b10#2 then .ldrsb else .ldrsh

/-- R101: half-word and signed transfer; the immediate is split, bits 11:8 are ignored in the register form. -/
def decodeHalf (cond : Cond) (w : Word) : Instr :=
  let op := HalfOp.ofBits (bits w 6 5) (bit w 20)
  if bit w 22 then
    op.instrImm cond (bit w 24) (bit w 23) (bit w 21) (bits w 19 16) (bits w 15 12)
      ((bits w 11 8 : BitVec 4) ++ (bits w 3 0 : BitVec 4))
  else
    op.instrReg cond (bit w 24) (bit w 23) (bit w 21) (bits w 19 16) (bits w 15 12) (bits w 3 0)

/-- R93 (b): the multiply pattern (bits 27:22 = 000000) and the multiply-long pattern (bits 27:23 = 00001), both with
bits 7:4 = 1001. -/
def isMultiply (w : Word) : Bool :=
  ((bits w 27 22 : BitVec 6) == 0b000000#6 || (bits w 27 23 : BitVec 5) == 0b00001#5)
    && bit w 7 && (bits w 6 5 : BitVec 2) == 0b00#2 && bit w 4

/-- R93 (b): the multiply-half pattern, bits 27:23 = 00010, bit 20 = 0, bit 7 = 1, bit 4 = 0. -/
def isMulhalf (w : Word) : Bool :=
  (bits w 27 23 : BitVec 5) == 0b00010#5 && !bit w 20 && bit w 7 && !bit w 4

/-- R102: the operation of bits 23:21 (0 A for the 32-bit forms, 1 U A for the long ones). -/
def MulOp.ofBits (f : BitVec 3) : MulOp :=
  if f = 0b000#3 then .mul else if f = 0b001#3 then .mla
  else if f = 0b100#3 then .umull else if f = 0b101#3 then .umlal
  else if f = 0b110#3 then .smull else .smlal

/-- R102, the other direction. -/
def MulOp.toBits : MulOp → BitVec 3
  | .mul => 0b000 | .mla => 0b001 | .umull => 0b100 | .umlal => 0b101 | .smull => 0b110 | .smlal => 0b111

/-- R102: multiply and multiply-long. -/
def decodeMultiply (cond : Cond) (w : Word) : Instr :=
  (MulOp.ofBits (bits w 23 21)).instr cond (bit w 20) (bits w 19 16) (bits w 15 12) (bits w 11 8) (bits w 3 0)

/-- R102: multiply-half, raw fields only. -/
def decodeMulhalf (cond : Cond) (w : Word) : Instr :=
  .mulhalf cond (bits w 19 16) (bits w 15 12) (bits w 11 8) (bits w 3 0) (bits w 22 21) (bits w 6 5)

/-- R93 (c): bits 27:26 = 00, bits 24:23 = 10, bit 20 = 0, and not (bit 25 = 1 and bit 21 = 0). -/
def isPsrTransfer (w : Word) : Bool :=
  (bits w 27 26 : BitVec 2) == 0b00#2 && (bits w 24 23 : BitVec 2) == 0b10#2 && !bit w 20
    && !(bit w 25 && !bit w 21)

/-- R103: MRS and the two forms of MSR. -/
def decodePsrTransfer (cond : Cond) (w : Word) : Instr :=
  let psr := PsrSel.ofBit (bit w 22)
  if bit w 21 then
    if bit w 25 then .msrImm cond psr (bits w 19 16) (bits w 11 8) (bits w 7 0)
    else .msrReg cond psr (bits w 19 16) (bits w 3 0)
  else .mrs cond psr (bits w 15 12)

/-- R92: the wide decoder; the first step that matches wins. -/
def decodeWide (w : Word) : Instr :=
  let cond := Cond.ofBits (bits w 31 28)
  -- step 1
  if (bits w 27 4 : BitVec 24) = 0x12FFF1#24 then .bx cond (bits w 3 0)
  -- step 2
  else if (bits w 27 24 : BitVec 4) = 0b1111#4 then .swi cond (bits w 23 0)
  -- step 3
  else if (bits w 27 25 : BitVec 3) = 0b101#3 then
    if bit w 24 then .bl cond (bits w 23 0) else .b cond (bits w 23 0)
  -- step 4
  else if (bits w 27 26 : BitVec 2) = 0b01#2 then decodeSingle cond w
  else if (bits w 27 25 : BitVec 3) = 0b100#3 then decodeBlock cond w
  -- step 5
  else if isSwap w then decodeSwap cond w
  else if isHalfOrSigned w then decodeHalf cond w
  -- step 6
  else if isMultiply w then decodeMultiply cond w
  else if isMulhalf w then decodeMulhalf cond w
  -- step 7
  else if isPsrTransfer w then decodePsrTransfer cond w
  -- step 8
  else if (bits w 27 26 : BitVec 2) = 0b00#2 then decodeDataProcessing cond w
  -- step 9
  else .undefined cond

/-! ## Compressed decoder (R110 to R131) -/

/-- R112: format 1. -/
def decodeFormat1 (h : Half) : Instr :=
  if (bits h 12 11 : BitVec 2) = 0b00#2 then .cLslImm (bits h 10 6) (bits h 5 3) (bits h 2 0)
  else if (bits h 12 11 : BitVec 2) = 0b01#2 then .cLsrImm (bits h 10 6) (bits h 5 3) (bits h 2 0)
  else .cAsrImm (bits h 10 6) (bits h 5 3) (bits h 2 0)

/-- R113: format 2, I = h[10], op = h[9]. -/
def decodeFormat2 (h : Half) : Instr :=
  if bit h 10 then
    if bit h 9 then .cSubImm3 (bits h 8 6) (bits h 5 3) (bits h 2 0)
    else .cAddImm3 (bits h 8 6) (bits h 5 3) (bits h 2 0)
  else
    if bit h 9 then .cSubReg (bits h 8 6) (bits h 5 3) (bits h 2 0)
    else .cAddReg (bits h 8 6) (bits h 5 3) (bits h 2 0)

/-- R114: format 3. -/
def decodeFormat3 (h : Half) : Instr :=
  if (bits h 12 11 : BitVec 2) = 0b00#2 then .cMovImm8 (bits h 10 8) (bits h 7 0)
  else if (bits h 12 11 : BitVec 2) = 0b01#2 then .cCmpImm8 (bits h 10 8) (bits h 7 0)
  else if (bits h 12 11 : BitVec 2) = 0b10#2 then .cAddImm8 (bits h 10 8) (bits h 7 0)
  else .cSubImm8 (bits h 10 8) (bits h 7 0)

/-- R115: format 4, op = h[9:6]. -/
def decodeFormat4 (h : Half) : Instr :=
  let rs : LowReg := bits h 5 3
  let rd : LowReg := bits h 2 0
  match (bits h 9 6 : BitVec 4).toNat with
  | 0 => .cAnd rs rd
  | 1 => .cEor rs rd
  | 2 => .cLslReg rs rd
  | 3 => .cLsrReg rs rd
  | 4 => .cAsrReg rs rd
  | 5 => .cAdc rs rd
  | 6 => .cSbc rs rd
  | 7 => .cRorReg rs rd
  | 8 => .cTst rs rd
  | 9 => .cNeg rs rd
  | 10 => .cCmp rs rd
  | 11 => .cCmn rs rd
  | 12 => .cOrr rs rd
  | 13 => .cMul rs rd
  | 14 => .cBic rs rd
  | _ => .cMvn rs rd

/-- R116: format 5; the full register numbers are d = h[7] : h[2:0] and s = h[6] : h[5:3]. -/
def decodeFormat5 (h : Half) : Instr :=
  let d : Reg := (bits h 7 7 : BitVec 1) ++ (bits h 2 0 : BitVec 3)
  let s : Reg := (bits h 6 6 : BitVec 1) ++ (bits h 5 3 : BitVec 3)
  if (bits h 9 8 : BitVec 2) = 0b00#2 then .cAddHi s d
  else if (bits h 9 8 : BitVec 2) = 0b01#2 then .cCmpHi s d
  else if (bits h 9 8 : BitVec 2) = 0b10#2 then .cMovHi s d
  else .cBx s

/-- R118: format 7, L = h[11], B = h[10]. -/
def decodeFormat7 (h : Half) : Instr :=
  if bit h 11 then
    if bit h 10 then .cLdrbReg (bits h 8 6) (bits h 5 3) (bits h 2 0)
    else .cLdrReg (bits h 8 6) (bits h 5 3) (bits h 2 0)
  else
    if bit h 10 then .cStrbReg (bits h 8 6) (bits h 5 3) (bits h 2 0)
    else .cStrReg (bits h 8 6) (bits h 5 3) (bits h 2 0)

/-- R119: format 8, H = h[11], S = h[10]. -/
def decodeFormat8 (h : Half) : Instr :=
  if bit h 10 then
    if bit h 11 then .cLdrshReg (bits h 8 6) (bits h 5 3) (bits h 2 0)
    else .cLdrsbReg (bits h 8 6) (bits h 5 3) (bits h 2 0)
  else
    if bit h 11 then .cLdrhReg (bits h 8 6) (bits h 5 3) (bits h 2 0)
    else .cStrhReg (bits h 8 6) (bits h 5 3) (bits h 2 0)

/-- R120: format 9, B = h[12], L = h[11]. -/
def decodeFormat9 (h : Half) : Instr :=
  if bit h 12 then
    if bit h 11 then .cLdrbImm (bits h 10 6) (bits h 5 3) (bits h 2 0)
    else .cStrbImm (bits h 10 6) (bits h 5 3) (bits h 2 0)
  else
    if bit h 11 then .cLdrImm (bits h 10 6) (bits h 5 3) (bits h 2 0)
    else .cStrImm (bits h 10 6) (bits h 5 3) (bits h 2 0)

/-- R121: format 10, L = h[11]. -/
def decodeFormat10 (h : Half) : Instr :=
  if bit h 11 then .cLdrhImm (bits h 10 6) (bits h 5 3) (bits h 2 0)
  else .cStrhImm (bits h 10 6) (bits h 5 3) (bits h 2 0)

/-- R122: format 11, L = h[11]. -/
def decodeFormat11 (h : Half) : Instr :=
  if bit h 11 then .cLdrSp (bits h 10 8) (bits h 7 0) else .cStrSp (bits h 10 8) (bits h 7 0)

/-- R123: format 12, SP = h[11]. -/
def decodeFormat12 (h : Half) : Instr :=
  if bit h 11 then .cAddSp (bits h 10 8) (bits h 7 0) else .cAddPc (bits h 10 8) (bits h 7 0)

/-- R124: format 13, S = h[7]. -/
def decodeFormat13 (h : Half) : Instr :=
  if bit h 7 then .cSubSpImm (bits h 6 0) else .cAddSpImm (bits h 6 0)

/-- R125: format 14, L = h[11], R = h[8]. -/
def decodeFormat14 (h : Half) : Instr :=
  if bit h 11 then .cPop (bit h 8) (bits h 7 0) else .cPush (bit h 8) (bits h 7 0)

/-- R126: format 15, L = h[11]. -/
def decodeFormat15 (h : Half) : Instr :=
  if bit h 11 then .cLdmia (bits h 10 8) (bits h 7 0) else .cStmia (bits h 10 8) (bits h 7 0)

/-- R127 with the three rows of R136: the row is chosen by the condition's range. -/
def decodeFormat16 (h : Half) : Instr :=
  if !bit h 11 then .cBcond0 (Cond.ofBits (bits h 11 8)) (bits h 7 0)
  else if !bit h 10 then .cBcond8 (Cond.ofBits (bits h 11 8)) (bits h 7 0)
  else .cBcondC (Cond.ofBits (bits h 11 8)) (bits h 7 0)

/-- R130: format 19, H = h[11]. -/
def decodeFormat19 (h : Half) : Instr :=
  if bit h 11 then .cBlh2 (bits h 10 0) else .cBlh1 (bits h 10 0)

/-- R110: the compressed dispatch. Every half-word matches exactly one row; the rows without a format give UNDEFINED
(R131). -/
def decodeCompressed (h : Half) : Instr :=
  let top : BitVec 3 := bits h 15 13
  let mid : BitVec 4 := bits h 11 8
  if top = 0b000#3 then
    if (bits h 12 11 : BitVec 2) = 0b11#2 then decodeFormat2 h else decodeFormat1 h
  else if top = 0b001#3 then decodeFormat3 h
  else if top = 0b010#3 then
    if bit h 12 then (if bit h 9 then decodeFormat8 h else decodeFormat7 h)
    else if bit h 11 then .cLdrPc (bits h 10 8) (bits h 7 0)
    else if bit h 10 then decodeFormat5 h
    else decodeFormat4 h
  else if top = 0b011#3 then decodeFormat9 h
  else if top = 0b100#3 then
    if bit h 12 then decodeFormat11 h else decodeFormat10 h
  else if top = 0b101#3 then
    if bit h 12 then
      if mid = 0b0000#4 then decodeFormat13 h
      else if (bits h 10 9 : BitVec 2) = 0b10#2 then decodeFormat14 h
      else if mid = 0b1110#4 then .cBkpt (bits h 7 0)
      else .cUndefined
    else decodeFormat12 h
  else if top = 0b110#3 then
    if bit h 12 then
      if mid = 0b1110#4 then .cUndefined
      else if mid = 0b1111#4 then .cSwi (bits h 7 0)
      else decodeFormat16 h
    else decodeFormat15 h
  else
    if bit h 12 then decodeFormat19 h
    else if bit h 11 then .cUndefined
    else .cB (bits h 10 0)

/-! ## Byte order (R62, R64, R66; conflict C11): the one place where it is fixed -/

/-- R62: a half-word is the big-endian composition of two bytes; `b0` lies at the lower address. -/
def composeHalf (b0 b1 : Byte) : Half := b0 ++ b1

/-- R62: a word is the big-endian composition of two half-words; `h0` lies at the lower address. -/
def composeWord (h0 h1 : Half) : Word := h0 ++ h1

/-- R64: the bytes of a half-word in ascending address order. -/
def splitHalf (h : Half) : List Byte := [bits h 15 8, bits h 7 0]

/-- R64: the bytes of a word in ascending address order. -/
def splitWord (w : Word) : List Byte := [bits w 31 24, bits w 23 16, bits w 15 8, bits w 7 0]

/-! ## Decoding a byte string -/

/-- Why a byte string holds no instruction. -/
inductive DecodeError where
  /-- fewer bytes than the instruction's width (R90) -/
  | truncated
  deriving DecidableEq, Repr

/-- R90: the instruction at the head of a byte string, and the rest; `t` is CPSR.T, which chooses the decoder. -/
def decode (t : Bool) (bytes : List Byte) : Except DecodeError (Instr × List Byte) :=
  match t, bytes with
  | false, b0 :: b1 :: b2 :: b3 :: rest =>
    .ok (decodeWide (composeWord (composeHalf b0 b1) (composeHalf b2 b3)), rest)
  | true, b0 :: b1 :: rest => .ok (decodeCompressed (composeHalf b0 b1), rest)
  | _, _ => .error .truncated

/-- The instruction the decoder reads from `nbits` bits numbered as the opcode table numbers them: a wide row has 32
bits, a compressed row 16; the bytes are laid out as memory holds them (R66). -/
def decodeTableWord (nbits w : Nat) : Option Instr :=
  let r := if nbits = 32 then decode false (splitWord (BitVec.ofNat 32 w))
    else if nbits = 16 then decode true (splitHalf (BitVec.ofNat 16 w))
    else .error .truncated
  match r with
  | .ok (i, _) => some i
  | .error _ => none

/-! ## Encoder -/

/-- An instruction's code: one wide word or one half-word (R90). -/
inductive Code where
  | wide (w : Word)
  | half (h : Half)
  deriving DecidableEq, Repr

/-- The code's bytes in ascending address order (R64, R66). -/
def Code.bytes : Code → List Byte
  | .wide w => splitWord w
  | .half h => splitHalf h

/-- The decoder of the code's width (R90). -/
def Code.decode : Code → Instr
  | .wide w => decodeWide w
  | .half h => decodeCompressed h

/-- A field's bits at position `lo` of an `n`-bit word. -/
def place (n : Nat) {len : Nat} (v : BitVec len) (lo : Nat) : BitVec n := v.setWidth n <<< lo

/-- A one-bit field at position `lo` of an `n`-bit word. -/
def flag (n : Nat) (b : Bool) (lo : Nat) : BitVec n := place n (BitVec.ofBool b) lo

/-- R104: bits 25 and 11:0 of a second operand; the ignored bit 7 of the register shift is written 0. -/
def Op2.toBits : Op2 → Word
  | .imm rot v => 0x02000000#32 ||| place 32 rot 8 ||| place 32 v 0
  | .shiftImm shamt kind rm => place 32 shamt 7 ||| place 32 kind.toBits 5 ||| place 32 rm 0
  | .shiftReg rs kind rm => 0x00000010#32 ||| place 32 rs 8 ||| place 32 kind.toBits 5 ||| place 32 rm 0

/-- R104: the data-processing word. -/
def encodeDp (op : DpOp) (cond : Cond) (sf : Bool) (rn rd : Reg) (o : Op2) : Code :=
  .wide (place 32 cond.toBits 28 ||| place 32 op.toBits 21 ||| flag 32 sf 20 ||| place 32 rn 16 ||| place 32 rd 12
    ||| o.toBits)

/-- R99: the B and L bits. -/
def SingleOp.toBits : SingleOp → Word
  | .ldr => 0x00100000 | .str => 0x00000000 | .ldrb => 0x00500000 | .strb => 0x00400000

/-- R99, R101: cond, P, U, W, Rn and Rd of a transfer. -/
def transferBits (cond : Cond) (p u w : Bool) (rn rd : Reg) : Word :=
  place 32 cond.toBits 28 ||| flag 32 p 24 ||| flag 32 u 23 ||| flag 32 w 21 ||| place 32 rn 16 ||| place 32 rd 12

/-- R99: the single transfer word with an immediate offset. -/
def encodeSingleImm (op : SingleOp) (cond : Cond) (p u w : Bool) (rn rd : Reg) (imm : BitVec 12) : Code :=
  .wide (0x04000000#32 ||| op.toBits ||| transferBits cond p u w rn rd ||| place 32 imm 0)

/-- R99: the single transfer word with a shifted register offset; the ignored bit 4 is written 0. -/
def encodeSingleReg (op : SingleOp) (cond : Cond) (p u w : Bool) (rn rd : Reg) (shamt : BitVec 5) (kind : ShiftKind)
    (rm : Reg) : Code :=
  .wide (0x06000000#32 ||| op.toBits ||| transferBits cond p u w rn rd ||| place 32 shamt 7 ||| place 32 kind.toBits 5
    ||| place 32 rm 0)

/-- R101: the L and SH bits. -/
def HalfOp.toBits : HalfOp → Word
  | .ldrh => 0x001000B0 | .strh => 0x000000B0 | .ldrsb => 0x001000D0 | .ldrsh => 0x001000F0

/-- R101: the half-word or signed transfer word with an immediate offset. -/
def encodeHalfImm (op : HalfOp) (cond : Cond) (p u w : Bool) (rn rd : Reg) (imm : BitVec 8) : Code :=
  .wide (0x00400000#32 ||| op.toBits ||| transferBits cond p u w rn rd ||| place 32 (bits imm 7 4 : BitVec 4) 8
    ||| place 32 (bits imm 3 0 : BitVec 4) 0)

/-- R101: the half-word or signed transfer word with a register offset; the ignored bits 11:8 are written 0. -/
def encodeHalfReg (op : HalfOp) (cond : Cond) (p u w : Bool) (rn rd rm : Reg) : Code :=
  .wide (op.toBits ||| transferBits cond p u w rn rd ||| place 32 rm 0)

/-- R100: the block transfer word; `l` is the L bit. -/
def encodeBlock (l : Bool) (cond : Cond) (p u sb w : Bool) (rn : Reg) (rlist : BitVec 16) : Code :=
  .wide (0x08000000#32 ||| place 32 cond.toBits 28 ||| flag 32 p 24 ||| flag 32 u 23 ||| flag 32 sb 22
    ||| flag 32 w 21 ||| flag 32 l 20 ||| place 32 rn 16 ||| place 32 rlist 0)

/-- R101: the swap word; `b` is bit 22. -/
def encodeSwap (b : Bool) (cond : Cond) (rn rd rm : Reg) : Code :=
  .wide (0x01000090#32 ||| place 32 cond.toBits 28 ||| flag 32 b 22 ||| place 32 rn 16 ||| place 32 rd 12
    ||| place 32 rm 0)

/-- R102: the multiply word. -/
def encodeMul (op : MulOp) (cond : Cond) (sf : Bool) (rd rn rs rm : Reg) : Code :=
  .wide (0x00000090#32 ||| place 32 cond.toBits 28 ||| place 32 op.toBits 21 ||| flag 32 sf 20 ||| place 32 rd 16
    ||| place 32 rn 12 ||| place 32 rs 8 ||| place 32 rm 0)

/-- A compressed word with a 3-bit register at 5:3 and at 2:0. -/
def encodeLow2 (base : Half) (r53 r20 : LowReg) : Code := .half (base ||| place 16 r53 3 ||| place 16 r20 0)

/-- A compressed word with 3-bit registers at 8:6, 5:3 and 2:0 (R113, R118, R119). -/
def encodeLow3 (base : Half) (r86 r53 r20 : BitVec 3) : Code :=
  .half (base ||| place 16 r86 6 ||| place 16 r53 3 ||| place 16 r20 0)

/-- A compressed word with a 5-bit field at 10:6 and registers at 5:3 and 2:0 (R112, R120, R121). -/
def encodeLow5 (base : Half) (f : BitVec 5) (r53 r20 : LowReg) : Code :=
  .half (base ||| place 16 f 6 ||| place 16 r53 3 ||| place 16 r20 0)

/-- A compressed word with a register at 10:8 and a byte at 7:0. -/
def encodeReg8 (base : Half) (r : LowReg) (f : BitVec 8) : Code := .half (base ||| place 16 r 8 ||| place 16 f 0)

/-- R116: a format 5 word. -/
def encodeHi (base : Half) (s d : Reg) : Code :=
  .half (base ||| place 16 (bits d 3 3 : BitVec 1) 7 ||| place 16 (bits s 3 3 : BitVec 1) 6
    ||| place 16 (bits s 2 0 : BitVec 3) 3 ||| place 16 (bits d 2 0 : BitVec 3) 0)

/-- R127: a conditional branch. -/
def encodeBcond (cond : Cond) (offset : BitVec 8) : Code :=
  .half (0xD000#16 ||| place 16 cond.toBits 8 ||| place 16 offset 0)

/-- The code of an instruction. Ignored bits are written with the published values of R107. -/
def encode : Instr → Code
  | .bx cond rn => .wide (0x012FFF10#32 ||| place 32 cond.toBits 28 ||| place 32 rn 0)
  | .swi cond comment => .wide (0x0F000000#32 ||| place 32 cond.toBits 28 ||| place 32 comment 0)
  | .b cond offset => .wide (0x0A000000#32 ||| place 32 cond.toBits 28 ||| place 32 offset 0)
  | .bl cond offset => .wide (0x0B000000#32 ||| place 32 cond.toBits 28 ||| place 32 offset 0)
  | .ldrImm cond p u w rn rd imm => encodeSingleImm .ldr cond p u w rn rd imm
  | .ldrReg cond p u w rn rd shamt kind rm => encodeSingleReg .ldr cond p u w rn rd shamt kind rm
  | .strImm cond p u w rn rd imm => encodeSingleImm .str cond p u w rn rd imm
  | .strReg cond p u w rn rd shamt kind rm => encodeSingleReg .str cond p u w rn rd shamt kind rm
  | .ldrbImm cond p u w rn rd imm => encodeSingleImm .ldrb cond p u w rn rd imm
  | .ldrbReg cond p u w rn rd shamt kind rm => encodeSingleReg .ldrb cond p u w rn rd shamt kind rm
  | .strbImm cond p u w rn rd imm => encodeSingleImm .strb cond p u w rn rd imm
  | .strbReg cond p u w rn rd shamt kind rm => encodeSingleReg .strb cond p u w rn rd shamt kind rm
  | .ldm cond p u sb w rn rlist => encodeBlock true cond p u sb w rn rlist
  | .stm cond p u sb w rn rlist => encodeBlock false cond p u sb w rn rlist
  | .swp cond rn rd rm => encodeSwap false cond rn rd rm
  | .swpb cond rn rd rm => encodeSwap true cond rn rd rm
  | .ldrhImm cond p u w rn rd imm => encodeHalfImm .ldrh cond p u w rn rd imm
  | .ldrhReg cond p u w rn rd rm => encodeHalfReg .ldrh cond p u w rn rd rm
  | .strhImm cond p u w rn rd imm => encodeHalfImm .strh cond p u w rn rd imm
  | .strhReg cond p u w rn rd rm => encodeHalfReg .strh cond p u w rn rd rm
  | .ldrsbImm cond p u w rn rd imm => encodeHalfImm .ldrsb cond p u w rn rd imm
  | .ldrsbReg cond p u w rn rd rm => encodeHalfReg .ldrsb cond p u w rn rd rm
  | .ldrshImm cond p u w rn rd imm => encodeHalfImm .ldrsh cond p u w rn rd imm
  | .ldrshReg cond p u w rn rd rm => encodeHalfReg .ldrsh cond p u w rn rd rm
  | .mul cond sf rd rn rs rm => encodeMul .mul cond sf rd rn rs rm
  | .mla cond sf rd rn rs rm => encodeMul .mla cond sf rd rn rs rm
  | .umull cond sf rd rn rs rm => encodeMul .umull cond sf rd rn rs rm
  | .umlal cond sf rd rn rs rm => encodeMul .umlal cond sf rd rn rs rm
  | .smull cond sf rd rn rs rm => encodeMul .smull cond sf rd rn rs rm
  | .smlal cond sf rd rn rs rm => encodeMul .smlal cond sf rd rn rs rm
  | .mulhalf cond rd rn rs rm hiOp hiYx =>
    .wide (0x01000080#32 ||| place 32 cond.toBits 28 ||| place 32 hiOp 21 ||| place 32 rd 16 ||| place 32 rn 12
      ||| place 32 rs 8 ||| place 32 hiYx 5 ||| place 32 rm 0)
  | .mrs cond psr rd => .wide (0x010F0000#32 ||| place 32 cond.toBits 28 ||| flag 32 psr.toBit 22 ||| place 32 rd 12)
  | .msrReg cond psr fmask rm =>
    .wide (0x0120F000#32 ||| place 32 cond.toBits 28 ||| flag 32 psr.toBit 22 ||| place 32 fmask 16 ||| place 32 rm 0)
  | .msrImm cond psr fmask rot imm =>
    .wide (0x0320F000#32 ||| place 32 cond.toBits 28 ||| flag 32 psr.toBit 22 ||| place 32 fmask 16
      ||| place 32 rot 8 ||| place 32 imm 0)
  | .andImm cond sf rn rd rot imm => encodeDp .and cond sf rn rd (.imm rot imm)
  | .andShiftImm cond sf rn rd shamt kind rm => encodeDp .and cond sf rn rd (.shiftImm shamt kind rm)
  | .andShiftReg cond sf rn rd rs kind rm => encodeDp .and cond sf rn rd (.shiftReg rs kind rm)
  | .eorImm cond sf rn rd rot imm => encodeDp .eor cond sf rn rd (.imm rot imm)
  | .eorShiftImm cond sf rn rd shamt kind rm => encodeDp .eor cond sf rn rd (.shiftImm shamt kind rm)
  | .eorShiftReg cond sf rn rd rs kind rm => encodeDp .eor cond sf rn rd (.shiftReg rs kind rm)
  | .subImm cond sf rn rd rot imm => encodeDp .sub cond sf rn rd (.imm rot imm)
  | .subShiftImm cond sf rn rd shamt kind rm => encodeDp .sub cond sf rn rd (.shiftImm shamt kind rm)
  | .subShiftReg cond sf rn rd rs kind rm => encodeDp .sub cond sf rn rd (.shiftReg rs kind rm)
  | .rsbImm cond sf rn rd rot imm => encodeDp .rsb cond sf rn rd (.imm rot imm)
  | .rsbShiftImm cond sf rn rd shamt kind rm => encodeDp .rsb cond sf rn rd (.shiftImm shamt kind rm)
  | .rsbShiftReg cond sf rn rd rs kind rm => encodeDp .rsb cond sf rn rd (.shiftReg rs kind rm)
  | .addImm cond sf rn rd rot imm => encodeDp .add cond sf rn rd (.imm rot imm)
  | .addShiftImm cond sf rn rd shamt kind rm => encodeDp .add cond sf rn rd (.shiftImm shamt kind rm)
  | .addShiftReg cond sf rn rd rs kind rm => encodeDp .add cond sf rn rd (.shiftReg rs kind rm)
  | .adcImm cond sf rn rd rot imm => encodeDp .adc cond sf rn rd (.imm rot imm)
  | .adcShiftImm cond sf rn rd shamt kind rm => encodeDp .adc cond sf rn rd (.shiftImm shamt kind rm)
  | .adcShiftReg cond sf rn rd rs kind rm => encodeDp .adc cond sf rn rd (.shiftReg rs kind rm)
  | .sbcImm cond sf rn rd rot imm => encodeDp .sbc cond sf rn rd (.imm rot imm)
  | .sbcShiftImm cond sf rn rd shamt kind rm => encodeDp .sbc cond sf rn rd (.shiftImm shamt kind rm)
  | .sbcShiftReg cond sf rn rd rs kind rm => encodeDp .sbc cond sf rn rd (.shiftReg rs kind rm)
  | .rscImm cond sf rn rd rot imm => encodeDp .rsc cond sf rn rd (.imm rot imm)
  | .rscShiftImm cond sf rn rd shamt kind rm => encodeDp .rsc cond sf rn rd (.shiftImm shamt kind rm)
  | .rscShiftReg cond sf rn rd rs kind rm => encodeDp .rsc cond sf rn rd (.shiftReg rs kind rm)
  | .tstImm cond sf rn rd rot imm => encodeDp .tst cond sf rn rd (.imm rot imm)
  | .tstShiftImm cond sf rn rd shamt kind rm => encodeDp .tst cond sf rn rd (.shiftImm shamt kind rm)
  | .tstShiftReg cond sf rn rd rs kind rm => encodeDp .tst cond sf rn rd (.shiftReg rs kind rm)
  | .teqImm cond sf rn rd rot imm => encodeDp .teq cond sf rn rd (.imm rot imm)
  | .teqShiftImm cond sf rn rd shamt kind rm => encodeDp .teq cond sf rn rd (.shiftImm shamt kind rm)
  | .teqShiftReg cond sf rn rd rs kind rm => encodeDp .teq cond sf rn rd (.shiftReg rs kind rm)
  | .cmpImm cond sf rn rd rot imm => encodeDp .cmp cond sf rn rd (.imm rot imm)
  | .cmpShiftImm cond sf rn rd shamt kind rm => encodeDp .cmp cond sf rn rd (.shiftImm shamt kind rm)
  | .cmpShiftReg cond sf rn rd rs kind rm => encodeDp .cmp cond sf rn rd (.shiftReg rs kind rm)
  | .cmnImm cond sf rn rd rot imm => encodeDp .cmn cond sf rn rd (.imm rot imm)
  | .cmnShiftImm cond sf rn rd shamt kind rm => encodeDp .cmn cond sf rn rd (.shiftImm shamt kind rm)
  | .cmnShiftReg cond sf rn rd rs kind rm => encodeDp .cmn cond sf rn rd (.shiftReg rs kind rm)
  | .orrImm cond sf rn rd rot imm => encodeDp .orr cond sf rn rd (.imm rot imm)
  | .orrShiftImm cond sf rn rd shamt kind rm => encodeDp .orr cond sf rn rd (.shiftImm shamt kind rm)
  | .orrShiftReg cond sf rn rd rs kind rm => encodeDp .orr cond sf rn rd (.shiftReg rs kind rm)
  | .movImm cond sf rn rd rot imm => encodeDp .mov cond sf rn rd (.imm rot imm)
  | .movShiftImm cond sf rn rd shamt kind rm => encodeDp .mov cond sf rn rd (.shiftImm shamt kind rm)
  | .movShiftReg cond sf rn rd rs kind rm => encodeDp .mov cond sf rn rd (.shiftReg rs kind rm)
  | .bicImm cond sf rn rd rot imm => encodeDp .bic cond sf rn rd (.imm rot imm)
  | .bicShiftImm cond sf rn rd shamt kind rm => encodeDp .bic cond sf rn rd (.shiftImm shamt kind rm)
  | .bicShiftReg cond sf rn rd rs kind rm => encodeDp .bic cond sf rn rd (.shiftReg rs kind rm)
  | .mvnImm cond sf rn rd rot imm => encodeDp .mvn cond sf rn rd (.imm rot imm)
  | .mvnShiftImm cond sf rn rd shamt kind rm => encodeDp .mvn cond sf rn rd (.shiftImm shamt kind rm)
  | .mvnShiftReg cond sf rn rd rs kind rm => encodeDp .mvn cond sf rn rd (.shiftReg rs kind rm)
  | .undefined cond => .wide (0x0E000000#32 ||| place 32 cond.toBits 28)
  | .cLslImm shamt rm rd => encodeLow5 0x0000#16 shamt rm rd
  | .cLsrImm shamt rm rd => encodeLow5 0x0800#16 shamt rm rd
  | .cAsrImm shamt rm rd => encodeLow5 0x1000#16 shamt rm rd
  | .cAddReg rm rn rd => encodeLow3 0x1800#16 rm rn rd
  | .cAddImm3 imm rn rd => encodeLow3 0x1C00#16 imm rn rd
  | .cSubReg rm rn rd => encodeLow3 0x1A00#16 rm rn rd
  | .cSubImm3 imm rn rd => encodeLow3 0x1E00#16 imm rn rd
  | .cMovImm8 rd imm => encodeReg8 0x2000#16 rd imm
  | .cCmpImm8 rd imm => encodeReg8 0x2800#16 rd imm
  | .cAddImm8 rd imm => encodeReg8 0x3000#16 rd imm
  | .cSubImm8 rd imm => encodeReg8 0x3800#16 rd imm
  | .cAnd rs rd => encodeLow2 0x4000#16 rs rd
  | .cEor rs rd => encodeLow2 0x4040#16 rs rd
  | .cLslReg rs rd => encodeLow2 0x4080#16 rs rd
  | .cLsrReg rs rd => encodeLow2 0x40C0#16 rs rd
  | .cAsrReg rs rd => encodeLow2 0x4100#16 rs rd
  | .cAdc rs rd => encodeLow2 0x4140#16 rs rd
  | .cSbc rs rd => encodeLow2 0x4180#16 rs rd
  | .cRorReg rs rd => encodeLow2 0x41C0#16 rs rd
  | .cTst rs rd => encodeLow2 0x4200#16 rs rd
  | .cNeg rs rd => encodeLow2 0x4240#16 rs rd
  | .cCmp rs rd => encodeLow2 0x4280#16 rs rd
  | .cCmn rs rd => encodeLow2 0x42C0#16 rs rd
  | .cOrr rs rd => encodeLow2 0x4300#16 rs rd
  | .cMul rs rd => encodeLow2 0x4340#16 rs rd
  | .cBic rs rd => encodeLow2 0x4380#16 rs rd
  | .cMvn rs rd => encodeLow2 0x43C0#16 rs rd
  | .cAddHi rs rd => encodeHi 0x4400#16 rs rd
  | .cCmpHi rs rd => encodeHi 0x4500#16 rs rd
  | .cMovHi rs rd => encodeHi 0x4600#16 rs rd
  | .cBx rs => encodeHi 0x4700#16 rs 0
  | .cLdrPc rd imm => encodeReg8 0x4800#16 rd imm
  | .cStrReg rm rn rd => encodeLow3 0x5000#16 rm rn rd
  | .cStrbReg rm rn rd => encodeLow3 0x5400#16 rm rn rd
  | .cLdrReg rm rn rd => encodeLow3 0x5800#16 rm rn rd
  | .cLdrbReg rm rn rd => encodeLow3 0x5C00#16 rm rn rd
  | .cStrhReg rm rn rd => encodeLow3 0x5200#16 rm rn rd
  | .cLdrsbReg rm rn rd => encodeLow3 0x5600#16 rm rn rd
  | .cLdrhReg rm rn rd => encodeLow3 0x5A00#16 rm rn rd
  | .cLdrshReg rm rn rd => encodeLow3 0x5E00#16 rm rn rd
  | .cStrImm imm rn rd => encodeLow5 0x6000#16 imm rn rd
  | .cLdrImm imm rn rd => encodeLow5 0x6800#16 imm rn rd
  | .cStrbImm imm rn rd => encodeLow5 0x7000#16 imm rn rd
  | .cLdrbImm imm rn rd => encodeLow5 0x7800#16 imm rn rd
  | .cStrhImm imm rn rd => encodeLow5 0x8000#16 imm rn rd
  | .cLdrhImm imm rn rd => encodeLow5 0x8800#16 imm rn rd
  | .cStrSp rd imm => encodeReg8 0x9000#16 rd imm
  | .cLdrSp rd imm => encodeReg8 0x9800#16 rd imm
  | .cAddPc rd imm => encodeReg8 0xA000#16 rd imm
  | .cAddSp rd imm => encodeReg8 0xA800#16 rd imm
  | .cAddSpImm imm => .half (0xB000#16 ||| place 16 imm 0)
  | .cSubSpImm imm => .half (0xB080#16 ||| place 16 imm 0)
  | .cPush r rlist => .half (0xB400#16 ||| flag 16 r 8 ||| place 16 rlist 0)
  | .cPop r rlist => .half (0xBC00#16 ||| flag 16 r 8 ||| place 16 rlist 0)
  | .cStmia rn rlist => encodeReg8 0xC000#16 rn rlist
  | .cLdmia rn rlist => encodeReg8 0xC800#16 rn rlist
  | .cBcond0 cond offset => encodeBcond cond offset
  | .cBcond8 cond offset => encodeBcond cond offset
  | .cBcondC cond offset => encodeBcond cond offset
  | .cSwi comment => .half (0xDF00#16 ||| place 16 comment 0)
  | .cBkpt comment => .half (0xBE00#16 ||| place 16 comment 0)
  | .cB offset => .half (0xE000#16 ||| place 16 offset 0)
  | .cBlh1 offset => .half (0xF000#16 ||| place 16 offset 0)
  | .cBlh2 imm => .half (0xF800#16 ||| place 16 imm 0)
  | .cUndefined => .half 0xDE00#16

/-! ## Tags (R46) -/

/-- R46: the tag of a data-processing operation. -/
def DpOp.tag : DpOp → Tag
  | .and => .and | .eor => .eor | .sub => .sub | .rsb => .rsb | .add => .add | .adc => .adc | .sbc => .sbc | .rsc => .rsc
  | .tst => .tst | .teq => .teq | .cmp => .cmp | .cmn => .cmn | .orr => .orr | .mov => .mov | .bic => .bic | .mvn => .mvn

/-- R46, R96 to R131: the tag of the record each decoder produces: the wide tag a compressed format names (R111), so its
shifts are MOV, its NEG is RSB, its PUSH and POP are STM and LDM. -/
def Instr.tag : Instr → Tag
  | .andImm .. | .andShiftImm .. | .andShiftReg .. | .cAnd .. => .and
  | .eorImm .. | .eorShiftImm .. | .eorShiftReg .. | .cEor .. => .eor
  | .subImm .. | .subShiftImm .. | .subShiftReg .. | .cSubReg .. | .cSubImm3 .. | .cSubImm8 ..
  | .cSubSpImm .. => .sub
  | .rsbImm .. | .rsbShiftImm .. | .rsbShiftReg .. | .cNeg .. => .rsb
  | .addImm .. | .addShiftImm .. | .addShiftReg .. | .cAddReg .. | .cAddImm3 .. | .cAddImm8 .. | .cAddHi ..
  | .cAddPc .. | .cAddSp .. | .cAddSpImm .. => .add
  | .adcImm .. | .adcShiftImm .. | .adcShiftReg .. | .cAdc .. => .adc
  | .sbcImm .. | .sbcShiftImm .. | .sbcShiftReg .. | .cSbc .. => .sbc
  | .rscImm .. | .rscShiftImm .. | .rscShiftReg .. => .rsc
  | .tstImm .. | .tstShiftImm .. | .tstShiftReg .. | .cTst .. => .tst
  | .teqImm .. | .teqShiftImm .. | .teqShiftReg .. => .teq
  | .cmpImm .. | .cmpShiftImm .. | .cmpShiftReg .. | .cCmpImm8 .. | .cCmp .. | .cCmpHi .. => .cmp
  | .cmnImm .. | .cmnShiftImm .. | .cmnShiftReg .. | .cCmn .. => .cmn
  | .orrImm .. | .orrShiftImm .. | .orrShiftReg .. | .cOrr .. => .orr
  | .movImm .. | .movShiftImm .. | .movShiftReg .. | .cLslImm .. | .cLsrImm .. | .cAsrImm .. | .cMovImm8 ..
  | .cLslReg .. | .cLsrReg .. | .cAsrReg .. | .cRorReg .. | .cMovHi .. => .mov
  | .bicImm .. | .bicShiftImm .. | .bicShiftReg .. | .cBic .. => .bic
  | .mvnImm .. | .mvnShiftImm .. | .mvnShiftReg .. | .cMvn .. => .mvn
  | .mul .. | .cMul .. => .mul
  | .mla .. => .mla
  | .umull .. => .umull
  | .umlal .. => .umlal
  | .smull .. => .smull
  | .smlal .. => .smlal
  | .mulhalf .. => .mulhalf
  | .mrs .. => .mrs
  | .msrReg .. | .msrImm .. => .msr
  | .ldrImm .. | .ldrReg .. | .cLdrPc .. | .cLdrReg .. | .cLdrImm .. | .cLdrSp .. => .ldr
  | .strImm .. | .strReg .. | .cStrReg .. | .cStrImm .. | .cStrSp .. => .str
  | .ldrbImm .. | .ldrbReg .. | .cLdrbReg .. | .cLdrbImm .. => .ldrb
  | .strbImm .. | .strbReg .. | .cStrbReg .. | .cStrbImm .. => .strb
  | .ldrhImm .. | .ldrhReg .. | .cLdrhReg .. | .cLdrhImm .. => .ldrh
  | .strhImm .. | .strhReg .. | .cStrhReg .. | .cStrhImm .. => .strh
  | .ldrsbImm .. | .ldrsbReg .. | .cLdrsbReg .. => .ldrsb
  | .ldrshImm .. | .ldrshReg .. | .cLdrshReg .. => .ldrsh
  | .ldm .. | .cPop .. | .cLdmia .. => .ldm
  | .stm .. | .cPush .. | .cStmia .. => .stm
  | .swp .. => .swp
  | .swpb .. => .swpb
  | .b .. | .cBcond0 .. | .cBcond8 .. | .cBcondC .. | .cB .. => .b
  | .bl .. => .bl
  | .bx .. | .cBx .. => .bx
  | .swi .. | .cSwi .. => .swi
  | .cBkpt .. => .bkpt
  | .cBlh1 .. => .blh1
  | .cBlh2 .. => .blh2
  | .undefined .. | .cUndefined => .undefined

end Sys2Proof
end

