-- ==== Sys2Proof/Machine/Psr.lean ====
section
/-! DEFINITION. The modes (R22, R35) and the status word (R32) with its packing (R33 to R36). -/

namespace Sys2Proof.Machine

/-- R22: the seven processor modes. -/
inductive Mode where
  | usr | fiq | irq | svc | abt | und | sys
  deriving DecidableEq, Repr

/-- R32: a processor status word, "7 boolean flags + 1 mode tag". Bits 27 to 8 have no storage. -/
structure Psr where
  n : Bool
  z : Bool
  c : Bool
  v : Bool
  /-- I, IRQ disabled when set (R41: storage only) -/
  irqOff : Bool
  /-- F, FIQ disabled when set (R41: storage only) -/
  fiqOff : Bool
  /-- T, compressed mode when set (R40) -/
  t : Bool
  mode : Mode
  deriving DecidableEq, Repr

/-! ## Packing (R33 to R36) -/

/-- R35: the 5-bit encoding of a mode. -/
def Mode.enc : Mode → BitVec 5
  | .usr => 0b10000 | .fiq => 0b10001 | .irq => 0b10010 | .svc => 0b10011
  | .abt => 0b10111 | .und => 0b11011 | .sys => 0b11111

/-- R35: the mode of a 5-bit value; "unrecognized mode-encoding bits falling back to User mode". -/
def Mode.ofBits (v : BitVec 5) : Mode :=
  if v = 0b10001#5 then .fiq else if v = 0b10010#5 then .irq else if v = 0b10011#5 then .svc
  else if v = 0b10111#5 then .abt else if v = 0b11011#5 then .und else if v = 0b11111#5 then .sys else .usr

/-- R22: User is the only unprivileged mode. -/
def Mode.privileged (m : Mode) : Bool := m != .usr

/-- R33: total over all 32-bit values; bits 27:8 are ignored. -/
def Psr.unpack (w : Word) : Psr where
  n := bit w 31
  z := bit w 30
  c := bit w 29
  v := bit w 28
  irqOff := bit w 7
  fiqOff := bit w 6
  t := bit w 5
  mode := Mode.ofBits (bits w 4 0)

/-- R34: bits 27:8 pack as 0. -/
def Psr.pack (p : Psr) : Word :=
  flag 32 p.n 31 ||| flag 32 p.z 30 ||| flag 32 p.c 29 ||| flag 32 p.v 28 ||| flag 32 p.irqOff 7
    ||| flag 32 p.fiqOff 6 ||| flag 32 p.t 5 ||| place 32 p.mode.enc 0

end Sys2Proof.Machine
end

