-- ==== Sys2Proof/Machine/State.lean ====
section
/-! DEFINITION. The state of the CORE block, all of it plain data: the 31 register slots (R21), the status words (R32,
R37), the memory behind the bus and the bus map (R60, R61, R71), and the model's own free-value counter (log 8); its
value after reset (R42, R461); the reasons a step can refuse. -/

namespace Sys2Proof.Machine

/-- R21: the 31 physical general register slots. `fiq i` is fiq[8 + i]; `irq`, `svc`, `abt` and `und` 0 and 1 are their
slots 13 and 14. -/
inductive Slot where
  | shared (i : Fin 16)
  | fiq (i : Fin 7)
  | irq (i : Fin 2)
  | svc (i : Fin 2)
  | abt (i : Fin 2)
  | und (i : Fin 2)
  deriving DecidableEq, Repr

/-- Memory: (address, byte) pairs in one canonical form (see `Memory.wf`). -/
abbrev Memory := List Host.Cell

/-- What stands behind a range of bus addresses (R61, R70, R71). -/
inductive RegionKind where
  /-- plain read-write memory -/
  | ram
  /-- writes are no-ops, reads are plain -/
  | readOnly
  /-- reads return 0, writes are no-ops -/
  | unmapped
  /-- a device: what a read answers is not the block's to say -/
  | device
  deriving DecidableEq, Repr

/-- A range of bus addresses: `size` bytes from `base`. -/
structure Region where
  base : Nat
  size : Nat
  kind : RegionKind
  deriving DecidableEq, Repr

/-- R71 (c): the program ROM, read-only from ROM_BASE. -/
def Region.programRom (size : Nat) : Region := ⟨Config.romBase.toNat, size, .readOnly⟩

/-- The state of the machine. -/
structure State where
  /-- r0 to r15 of User and System mode, and every index no other mode shadows; `shared[15]` is R15 (R28) -/
  shared : Vector Word 16
  /-- r8 to r14 of FIQ mode -/
  fiq : Vector Word 7
  /-- r13, r14 of IRQ mode -/
  irq : Vector Word 2
  /-- r13, r14 of Supervisor mode -/
  svc : Vector Word 2
  /-- r13, r14 of Abort mode -/
  abt : Vector Word 2
  /-- r13, r14 of Undefined mode -/
  und : Vector Word 2
  /-- the current status word -/
  cpsr : Psr
  spsrFiq : Psr
  spsrIrq : Psr
  spsrSvc : Psr
  spsrAbt : Psr
  spsrUnd : Psr
  /-- the bytes behind the bus -/
  mem : Memory
  /-- the bus map; the first region that holds an address says what it is, an address in no region is plain memory -/
  bus : List Region
  /-- the MODEL'S OWN field (log 8): the index of the next free value -/
  free : Nat
  deriving DecidableEq, Repr

/-- Why the machine stops with a fault: never. R50: "the block itself never stops"; R421: no access and no instruction
raises anything but the two traps, which are next states. -/
inductive Fault where
  deriving DecidableEq, Repr

/-- Why a step gives a program no meaning: the `refuse` cases of the spec (R11), each under its own name. All of them
are safe: the model stops where the spec gives no effect. -/
inductive Refusal where
  /-- an instruction without a meaning in this model, raised by `exec`'s arm; safe -/
  | notModelled (mnemonic : String)
  /-- MULHALF under the default MULHALF_POLICY (R217); safe -/
  | mulhalfPolicy
  /-- BKPT under the default BKPT_POLICY (R396); safe -/
  | bkptPolicy
  /-- MRS, MSR or an exception return that needs the SPSR of User or System mode (R37, R181, R230, R231, R268); safe -/
  | noSpsr
  /-- r15 as operand or destination of a multiply (R210); safe -/
  | pcInMultiply
  /-- a single, half-word or signed transfer that writes its address back to r15 (R245, R250); safe -/
  | pcWriteback
  /-- r15 as the offset register of a single, half-word or signed transfer (R245, R250); safe -/
  | pcOffset
  /-- r15 in any position of a swap (R260, R261); safe -/
  | pcInSwap
  /-- r15 as the base of a block transfer (R271); safe -/
  | pcBlockBase
  /-- a User-bank block transfer with write-back (R268); safe -/
  | userBankWriteback
  deriving DecidableEq, Repr

/-- The outcome of an instruction. -/
abbrev Result := Host.Outcome State Fault Refusal

/-- R42, R461: the machine right after reset. R15 is RESET_PC and CPSR the unpacked RESET_CPSR (its N, Z, C, V are DESIGN
CHOICE, log 2, unsafe); every SPSR is the unpacked word 0 (DESIGN CHOICE, log 3, unsafe) and every other register 0 (DESIGN
CHOICE, log 1, unsafe); memory lists nothing and the bus map is empty (logs 5 and 6). -/
def State.reset : State where
  shared := (Vector.replicate 16 0).set 15 Config.resetPc
  fiq := Vector.replicate 7 0
  irq := Vector.replicate 2 0
  svc := Vector.replicate 2 0
  abt := Vector.replicate 2 0
  und := Vector.replicate 2 0
  cpsr := Psr.unpack Config.resetCpsr
  spsrFiq := Psr.unpack 0
  spsrIrq := Psr.unpack 0
  spsrSvc := Psr.unpack 0
  spsrAbt := Psr.unpack 0
  spsrUnd := Psr.unpack 0
  mem := []
  bus := []
  free := 0

end Sys2Proof.Machine
end

