-- ==== Sys2Proof/Machine/Flags.lean ====
section
/-! DEFINITION. The condition test (R170), the adder (R160, R161), and every flag computation: arithmetic and logical (R162,
R163) and the multiplies' (R218). -/

namespace Sys2Proof.Machine

/-! ## Condition test (R170) -/

/-- R170: whether an instruction with this condition executes; 0b1111 never passes (decision D5). -/
def conditionPassed (cond : Cond) (p : Psr) : Bool :=
  match cond with
  | .eq => p.z
  | .ne => !p.z
  | .cs => p.c
  | .cc => !p.c
  | .mi => p.n
  | .pl => !p.n
  | .vs => p.v
  | .vc => !p.v
  | .hi => p.c && !p.z
  | .ls => !p.c || p.z
  | .ge => p.n == p.v
  | .lt => p.n != p.v
  | .gt => !p.z && p.n == p.v
  | .le => p.z || p.n != p.v
  | .al => true
  | .nv => false

/-! ## Adder (R160) -/

/-- R160: the sum with carry-in, the carry out (bit 32 of the unbounded sum) and the signed overflow. -/
def addWithCarry (x y : Word) (cin : Bool) : Word × Bool × Bool :=
  let usum := x.toNat + y.toNat + cin.toNat
  let r : Word := BitVec.ofNat 32 usum
  (r, decide (2 ^ 32 ≤ usum), bit x 31 == bit y 31 && bit r 31 != bit x 31)

/-! ## What an ALU operation computes (R180 to R198) -/

/-- R180: a result with its kind: a logical operation leaves C to the shifter and V alone, an arithmetic one computes
both. -/
inductive AluOut where
  | logical (r : Word)
  | arith (r : Word) (c v : Bool)
  deriving DecidableEq, Repr

/-- The result word. -/
def AluOut.result : AluOut → Word
  | .logical r => r
  | .arith r _ _ => r

/-- An ALU operation: first operand, second operand, CPSR.C. -/
abbrev AluFn := Word → Word → Bool → AluOut

/-- An adder output as an arithmetic result. -/
def AluOut.ofAdder (x : Word × Bool × Bool) : AluOut := .arith x.1 x.2.1 x.2.2

/-- R182, R190, R312, R320. -/
def aluAnd : AluFn := fun a b _ => .logical (a &&& b)
/-- R183, R191, R313. -/
def aluEor : AluFn := fun a b _ => .logical (a ^^^ b)
/-- R184, R192, R306, R309, R322: `x - y` is `x + ~y + 1` (R161). -/
def aluSub : AluFn := fun a b _ => .ofAdder (addWithCarry a (~~~b) true)
/-- R185, R321. -/
def aluRsb : AluFn := fun a b _ => .ofAdder (addWithCarry b (~~~a) true)
/-- R186, R193, R304, R323. -/
def aluAdd : AluFn := fun a b _ => .ofAdder (addWithCarry a b false)
/-- R187, R317. -/
def aluAdc : AluFn := fun a b c => .ofAdder (addWithCarry a b c)
/-- R188, R318. -/
def aluSbc : AluFn := fun a b c => .ofAdder (addWithCarry a (~~~b) c)
/-- R189. -/
def aluRsc : AluFn := fun a b c => .ofAdder (addWithCarry b (~~~a) c)
/-- R194, R324. -/
def aluOrr : AluFn := fun a b _ => .logical (a ||| b)
/-- R195, R301: the first operand is not used. -/
def aluMov : AluFn := fun _ b _ => .logical b
/-- R196, R326. -/
def aluBic : AluFn := fun a b _ => .logical (a &&& ~~~b)
/-- R198, R327. -/
def aluMvn : AluFn := fun _ b _ => .logical (~~~b)

/-! ## Flag updates (R162, R163, R218) -/

/-- R163: SetFlagsArith. -/
def Psr.setArith (p : Psr) (r : Word) (c v : Bool) : Psr := { p with n := bit r 31, z := r == 0, c := c, v := v }

/-- R163: SetFlagsLogical; V is unchanged. -/
def Psr.setLogical (p : Psr) (r : Word) (sc : Bool) : Psr := { p with n := bit r 31, z := r == 0, c := sc }

/-- R180: the flags of an ALU result, `sc` being the shifter carry. -/
def Psr.setAlu (p : Psr) (o : AluOut) (sc : Bool) : Psr :=
  match o with
  | .logical r => p.setLogical r sc
  | .arith r c v => p.setArith r c v

/-- R218, MUL and MLA: N and Z of the 32-bit result, C a free value, V unchanged. -/
def Psr.setMul (p : Psr) (r : Word) (free : Nat) : Psr :=
  { p with n := bit r 31, z := r == 0, c := Config.mulCarry free }

/-- R218, the long forms: N and Z of the 64-bit result, C and V free values. -/
def Psr.setMulLong (p : Psr) (r : BitVec 64) (free : Nat) : Psr :=
  { p with n := bit r 63, z := r == 0, c := Config.mulCarry free, v := Config.mulOverflow free }

end Sys2Proof.Machine
end

