-- ==== Sys2Proof/Machine/Ops.lean ====
section
/-! DEFINITION. The named operations over registers (R24 to R31), status words (R37), memory and the bus (R60 to R78),
taking an exception (R424) and returning from one (R430), and the frame of every instruction (R12).

Inside a meaning the state `s` is the one the step began in, so `s.pc` is A, the instruction's address; effects are
applied to `s.advance W`, which a write of r15 overrides (R12, R30, R31, log 11). -/

namespace Sys2Proof.Machine

/-! ## Register slots (R21, R24) -/

/-- R24: the resolution function, from a mode and a logical register number to a storage slot. -/
def slot (m : Mode) (i : Reg) : Slot :=
  match m with
  | .fiq => if h : 8 ≤ i.toNat ∧ i.toNat ≤ 14 then .fiq ⟨i.toNat - 8, by omega⟩ else .shared i.toFin
  | .irq => if i = 13 then .irq 0 else if i = 14 then .irq 1 else .shared i.toFin
  | .svc => if i = 13 then .svc 0 else if i = 14 then .svc 1 else .shared i.toFin
  | .abt => if i = 13 then .abt 0 else if i = 14 then .abt 1 else .shared i.toFin
  | .und => if i = 13 then .und 0 else if i = 14 then .und 1 else .shared i.toFin
  | .usr | .sys => .shared i.toFin

/-- The 32 bits of a slot. -/
def State.readSlot (s : State) : Slot → Word
  | .shared i => s.shared[i]
  | .fiq i => s.fiq[i]
  | .irq i => s.irq[i]
  | .svc i => s.svc[i]
  | .abt i => s.abt[i]
  | .und i => s.und[i]

/-- Replaces the 32 bits of a slot and nothing else (R25). -/
def State.writeSlot (s : State) (σ : Slot) (v : Word) : State :=
  match σ with
  | .shared i => { s with shared := s.shared.set i v }
  | .fiq i => { s with fiq := s.fiq.set i v }
  | .irq i => { s with irq := s.irq.set i v }
  | .svc i => { s with svc := s.svc.set i v }
  | .abt i => { s with abt := s.abt.set i v }
  | .und i => { s with und := s.und.set i v }

/-- The slot of the program counter, one copy for all modes (R28). -/
def pcSlot : Slot := .shared 15

/-- R28: the raw stored program counter R15; between steps the address of the next instruction. -/
def State.pc (s : State) : Word := s.readSlot pcSlot

/-- Writes R15 as it stands. -/
def State.setPc (s : State) (v : Word) : State := s.writeSlot pcSlot v

/-- R30: the alignment of a value written to r15, by the encoding flag in effect. -/
def alignPc (t : Bool) (v : Word) : Word := if t then v &&& 0xFFFFFFFE#32 else v &&& 0xFFFFFFFC#32

/-- R30: `pc <- v`, aligned by CPSR.T as it now stands. -/
def State.branchTo (s : State) (v : Word) : State := s.setPc (alignPc s.cpsr.t v)

/-- R31: the sequential advance by the instruction's width. -/
def State.advance (s : State) (width : Word) : State := s.setPc (s.pc + width)

/-- R11, R29: a read of register `i` through the current mode's bank; r15 reads the instruction's address plus
`pcoff`. -/
def State.reg (s : State) (i : Reg) (pcoff : Word) : Word :=
  if i = 15 then s.pc + pcoff else s.readSlot (slot s.cpsr.mode i)

/-- R11: `x[i]` in a wide instruction. -/
def State.x (s : State) (i : Reg) : Word := s.reg i Config.pcReadWide

/-- R11: `x[i]` in a compressed instruction. -/
def State.xc (s : State) (i : Reg) : Word := s.reg i Config.pcReadCompressed

/-- R11, R25, R30: `x[i] <- v`; for r15 a control transfer. -/
def State.setX (s : State) (i : Reg) (v : Word) : State :=
  if i = 15 then s.branchTo v else s.writeSlot (slot s.cpsr.mode i) v

/-- R26: `xu[i]`, the User bank from any mode. -/
def State.xu (s : State) (i : Reg) : Word := s.readSlot (slot .usr i)

/-- R26: `xu[i] <- v`. -/
def State.setXu (s : State) (i : Reg) (v : Word) : State := s.writeSlot (slot .usr i) v

/-- The full number of a 3-bit register field (R300 (b)). -/
def lowReg (r : LowReg) : Reg := r.setWidth 4

/-! ## Status words (R37) -/

/-- Replaces the CPSR. -/
def State.withCpsr (s : State) (p : Psr) : State := { s with cpsr := p }

/-- R37: the SPSR of a mode; User and System have none. -/
def State.spsrOf (s : State) : Mode → Option Psr
  | .fiq => some s.spsrFiq
  | .irq => some s.spsrIrq
  | .svc => some s.spsrSvc
  | .abt => some s.spsrAbt
  | .und => some s.spsrUnd
  | .usr | .sys => none

/-- R37: the SPSR of the current mode. -/
def State.spsr (s : State) : Option Psr := s.spsrOf s.cpsr.mode

/-- Writes the SPSR of a mode; User and System have none to write (every caller tests that first or names a mode that
has one). -/
def State.setSpsrOf (s : State) (m : Mode) (p : Psr) : State :=
  match m with
  | .fiq => { s with spsrFiq := p }
  | .irq => { s with spsrIrq := p }
  | .svc => { s with spsrSvc := p }
  | .abt => { s with spsrAbt := p }
  | .und => { s with spsrUnd := p }
  | .usr | .sys => s

/-! ## Memory: the canonical list (R60) -/

/-- The byte at an address; an unlisted address reads as `Config.unlistedByte`. -/
def Memory.read : Memory → Nat → Byte
  | [], _ => Config.unlistedByte
  | (k, v) :: m, a => if k = a then v else Memory.read m a

/-- Writes one byte, keeping the canonical form: a byte equal to what an unlisted address reads as is not listed. -/
def Memory.write : Memory → Nat → Byte → Memory
  | [], a, v => if v = Config.unlistedByte then [] else [(a, v)]
  | (k, u) :: m, a, v =>
    if a < k then (if v = Config.unlistedByte then (k, u) :: m else (a, v) :: (k, u) :: m)
    else if a = k then (if v = Config.unlistedByte then m else (a, v) :: m)
    else (k, u) :: Memory.write m a v

/-- The canonical form: every listed address is at least `lo` and below 2^32, addresses rise strictly, and no entry is
what an unlisted address reads as. -/
def Memory.wfFrom (lo : Nat) : Memory → Bool
  | [] => true
  | (k, v) :: m => decide (lo ≤ k) && decide (k < 2 ^ 32) && v != Config.unlistedByte && Memory.wfFrom (k + 1) m

/-- The canonical form of memory. -/
def Memory.wf (m : Memory) : Bool := Memory.wfFrom 0 m

/-! ## The bus (R61 to R67, R70, R71) -/

/-- Whether a region holds an address. -/
def Region.holds (r : Region) (a : Word) : Bool := decide (r.base ≤ a.toNat) && decide (a.toNat < r.base + r.size)

/-- What stands at an address: the first region that holds it, else plain memory. -/
def kindAt : List Region → Word → RegionKind
  | [], _ => .ram
  | r :: rs, a => if r.holds a then r.kind else kindAt rs a

/-- R61: `load8`, total: unmapped ranges read 0, a device answers a free value (log 7). -/
def State.load8 (s : State) (a : Word) : Byte :=
  match kindAt s.bus a with
  | .ram | .readOnly => s.mem.read a.toNat
  | .unmapped => 0
  | .device => Config.deviceByte s.free a

/-- R61, R421: `store8`; a write to a range that is not plain memory changes no memory and raises nothing. -/
def State.store8 (s : State) (a : Word) (v : Byte) : State :=
  match kindAt s.bus a with
  | .ram => { s with mem := s.mem.write a.toNat v }
  | .readOnly | .unmapped | .device => s

/-- Stores bytes at ascending addresses, in that order (R64). -/
def State.storeBytes (s : State) : Word → List Byte → State
  | _, [] => s
  | a, v :: vs => (s.store8 a v).storeBytes (a + 1) vs

/-- R61, R62: `load16`. -/
def State.load16 (s : State) (a : Word) : Half := composeHalf (s.load8 a) (s.load8 (a + 1))

/-- R61, R62: `load32`. -/
def State.load32 (s : State) (a : Word) : Word := composeWord (s.load16 a) (s.load16 (a + 2))

/-- R68: the three access widths. -/
inductive Size where
  | byte | half | word
  deriving DecidableEq, Repr

/-- The width in bytes (R68). -/
def Size.bytes : Size → Nat
  | .byte => 1 | .half => 2 | .word => 4

/-- R63: `MemRead(addr, n)`, zero-extended to 32 bits. -/
def State.memRead (s : State) (a : Word) : Size → Word
  | .byte => (s.load8 a).setWidth 32
  | .half => (s.load16 a).setWidth 32
  | .word => s.load32 a

/-- R64: `MemWrite(addr, n, v)`. -/
def State.memWrite (s : State) (a : Word) (sz : Size) (v : Word) : State :=
  match sz with
  | .byte => s.storeBytes a [bits v 7 0]
  | .half => s.storeBytes a (splitHalf (bits v 15 0))
  | .word => s.storeBytes a (splitWord v)

/-! ## Exceptions (R424, R430) -/

/-- R424: taking an exception into mode `m` at vector `vec`, from an instruction of `width` bytes at `s.pc`. -/
def State.takeException (s : State) (m : Mode) (vec width : Word) : State :=
  let old := s.cpsr
  let s1 := s.withCpsr { old with mode := m }
  let s2 := s1.setSpsrOf m old
  let s3 := s2.setX 14 (s.pc + width)
  let s4 := s3.withCpsr { s3.cpsr with t := false, irqOff := true }
  s4.branchTo vec

/-- R283, R395: the supervisor call. -/
def State.supervisorCall (s : State) (width : Word) : State := s.takeException .svc Config.vecSwi width

/-- R290, R410: the undefined-instruction trap. -/
def State.undefinedTrap (s : State) (width : Word) : State := s.takeException .und Config.vecUndefined width

/-- R430: `CPSR <- p; pc <- target`, the target aligned by the restored T. -/
def State.restore (s : State) (p : Psr) (target : Word) : State := (s.withCpsr p).branchTo target

/-- R430: exception return through the SPSR of the current mode; none in User and System mode (R37). -/
def State.exceptionReturn (s : State) (target : Word) : Result :=
  match s.spsr with
  | none => .refused .noSpsr
  | some p => .next (s.restore p target)

/-! ## The frame of an instruction (R12) -/

/-- R12, R170: a wide instruction whose condition fails only advances the program counter. -/
def whenPassed (cond : Cond) (s : State) (body : Result) : Result :=
  if conditionPassed cond s.cpsr then body else .next (s.advance 4)

/-- The step to the next free value (log 8). -/
def State.tick (s : State) : State := { s with free := s.free + 1 }

/-- R12, R66: fetch at R15 with the width T selects, and decode. -/
def State.fetch (s : State) : Instr :=
  if s.cpsr.t then decodeCompressed (s.load16 s.pc) else decodeWide (s.load32 s.pc)

/-- What a tag without a meaning does under its policy (R217, R396), in an instruction of `width` bytes. -/
def byPolicy (p : Config.Policy) (r : Refusal) (width : Word) (s : State) : Result :=
  match p with
  | .refuse => .refused r
  | .noop => .next (s.advance width)
  | .undefinedTrap => .next (s.undefinedTrap width)

/-! ## Placing a program's word (log 19) -/

/-- Makes one address plain memory if the bus map says it is something else. -/
def openAt (bus : List Region) (a : Word) : List Region :=
  if kindAt bus a = .ram then bus else ⟨a.toNat, 1, .ram⟩ :: bus

/-- Places one byte in memory from outside the machine. -/
def State.poke (s : State) (a : Word) (v : Byte) : State :=
  { s with mem := s.mem.write a.toNat v, bus := openAt s.bus a }

/-- Places bytes at ascending addresses from outside the machine. -/
def State.pokeBytes (s : State) : Word → List Byte → State
  | _, [] => s
  | a, v :: vs => (s.poke a v).pokeBytes (a + 1) vs

/-- Places the bytes of an instruction at R15 and selects its decoder. -/
def State.placeCode (s : State) (c : Code) : State :=
  let s' := s.pokeBytes s.pc c.bytes
  match c with
  | .wide _ => s'.withCpsr { s'.cpsr with t := false }
  | .half _ => s'.withCpsr { s'.cpsr with t := true }

end Sys2Proof.Machine
end

