-- ==== Sys2Proof/Machine/Operands.lean ====
section
/-! DEFINITION. The barrel shifter (R144 to R152), the second operand of data-processing (R175, R176), the offset and
address of the transfers (R240, R250) and the address frame of the block transfers (R265, R270). -/

namespace Sys2Proof.Machine

/-! ## Barrel shifter -/

/-- R148: the sign fill of a word. -/
def signFill (v : Word) : Word := if bit v 31 then 0xFFFFFFFF#32 else 0#32

/-- R145, R147, R148, R149: amounts 1 to 31. -/
def shiftShort (kind : ShiftKind) (v : Word) (n : Nat) : Word × Bool :=
  match kind with
  | .lsl => (v <<< n, bit v (32 - n))
  | .lsr => (v >>> n, bit v (n - 1))
  | .asr => ((v >>> n) ||| (signFill v <<< (32 - n)), bit v (n - 1))
  | .ror => ((v >>> n) ||| (v <<< (32 - n)), bit v (n - 1))

/-- R145, R146: immediate amount 0 (LSR and ASR by 32, ROR is RRX). -/
def shiftImmZero (kind : ShiftKind) (v : Word) (cin : Bool) : Word × Bool :=
  match kind with
  | .lsl => (v, cin)
  | .lsr => (0, bit v 31)
  | .asr => (signFill v, bit v 31)
  | .ror => (flag 32 cin 31 ||| (v >>> 1), bit v 0)

/-- R150: register amounts 32 to 255. -/
def shiftLong (kind : ShiftKind) (v : Word) (n : Nat) : Word × Bool :=
  match kind with
  | .lsl => (0, decide (n = 32) && bit v 0)
  | .lsr => (0, decide (n = 32) && bit v 31)
  | .asr => (signFill v, bit v 31)
  | .ror => if n % 32 = 0 then (v, bit v 31) else shiftShort .ror v (n % 32)

/-- R144, R151: the barrel shifter; `byRegister` tells a register's low byte from an instruction field (D22). -/
def shift (kind : ShiftKind) (v : Word) (n : Nat) (cin byRegister : Bool) : Word × Bool :=
  if n = 0 then (if byRegister then (v, cin) else shiftImmZero kind v cin)
  else if n < 32 then shiftShort kind v n
  else shiftLong kind v n

/-! ## Second operand of data-processing -/

/-- R106 (a): an 8-bit value rotated right by twice the rotation field. -/
def rotatedImm (rot : BitVec 4) (imm : BitVec 8) : Word := (imm.setWidth 32).rotateRight (2 * rot.toNat)

/-- R175: the rotated immediate with its shifter carry. -/
def immOperand (rot : BitVec 4) (imm : BitVec 8) (c : Bool) : Word × Bool :=
  (rotatedImm rot imm, if rot = 0 then c else bit (rotatedImm rot imm) 31)

/-- R176: what r15 reads as for the operands of a data-processing instruction with this second operand. -/
def op2PcOffset : Op2 → Word
  | .imm .. | .shiftImm .. => Config.pcReadWide
  | .shiftReg .. => Config.pcReadWideRegShift

/-- R176: the second operand and the shifter carry. -/
def operand2 (o : Op2) (s : State) : Word × Bool :=
  match o with
  | .imm rot imm => immOperand rot imm s.cpsr.c
  | .shiftImm shamt kind rm => shift kind (s.reg rm (op2PcOffset o)) shamt.toNat s.cpsr.c false
  | .shiftReg rs kind rm =>
    shift kind (s.reg rm (op2PcOffset o)) (bits (s.reg rs (op2PcOffset o)) 7 0 : BitVec 8).toNat s.cpsr.c true

/-! ## Offset and address of a transfer -/

/-- R240, R250: the value of the offset; the shifter's carry-out is discarded. -/
def offsetValue (o : Offset) (s : State) : Word :=
  match o with
  | .imm v => v
  | .shifted shamt kind rm => (shift kind (s.x rm) shamt.toNat s.cpsr.c false).1
  | .plain rm => s.x rm

/-- R245, R250: whether the offset register is r15, a case the spec refuses. -/
def offsetIsPc : Offset → Bool
  | .imm _ => false
  | .shifted _ _ rm => rm == 15
  | .plain rm => rm == 15

/-- R240: the target, base plus or minus offset. -/
def transferTarget (u : Bool) (base off : Word) : Word := if u then base + off else base - off

/-- R240: the address accessed: the target when pre-indexed, the base when post-indexed. -/
def transferAddr (p u : Bool) (base off : Word) : Word := if p then transferTarget u base off else base

/-- R240: whether the target is written back (post-indexed always does; decision D30). -/
def writesBack (p w : Bool) : Bool := !p || w

/-- R242: store data; r15 reads A + 12 (R29). -/
def storeData (rd : Reg) (s : State) : Word := s.reg rd Config.pcReadWideRegShift

/-! ## Block transfers -/

/-- R265, R270: the registers transferred, ascending; an empty list transfers r15 alone. -/
def blockRegs (rlist : BitVec 16) : List Reg :=
  if rlist = 0 then [15]
  else [0, 1, 2, 3, 4, 5, 6, 7, 8, 9, 10, 11, 12, 13, 14, 15].filter fun i => bit rlist i.toNat

/-- R265, R270: the number of words the base moves by; 16 for an empty list. -/
def blockCount (rlist : BitVec 16) : Nat := if rlist = 0 then 16 else (blockRegs rlist).length

/-- The bytes the base moves by. -/
def blockBytes (rlist : BitVec 16) : Word := BitVec.ofNat 32 (4 * blockCount rlist)

/-- R265: the lowest address of the transfer. -/
def blockStart (p u : Bool) (base : Word) (rlist : BitVec 16) : Word :=
  if u then (if p then base + 4 else base)
  else (if p then base - blockBytes rlist else base - blockBytes rlist + 4)

/-- R265: the base after the transfer. -/
def blockFinal (u : Bool) (base : Word) (rlist : BitVec 16) : Word :=
  if u then base + blockBytes rlist else base - blockBytes rlist

/-- R265: each register with its address, ascending by 4. -/
def blockAddrs : List Reg → Word → List (Reg × Word)
  | [], _ => []
  | i :: is, a => (i, a) :: blockAddrs is (a + 4)

/-- R265: the transfer's registers and addresses. -/
def blockPlan (p u : Bool) (base : Word) (rlist : BitVec 16) : List (Reg × Word) :=
  blockAddrs (blockRegs rlist) (blockStart p u base rlist)

end Sys2Proof.Machine
end

