-- ==== Sys2Proof/Machine/Branch.lean ====
section
/-! DEFINITION. Wide branches and traps (R280 to R292). -/

namespace Sys2Proof.Machine

/-- R280: the target of a branch: what a read of r15 gives, plus a byte displacement. -/
def branchTarget (pcRead displacement : Word) (s : State) : Word := s.pc + pcRead + displacement

/-- R282, R333: T becomes bit 0 of the value, and the program counter the value aligned by the new T. -/
def State.exchange (s : State) (v : Word) : State := (s.withCpsr { s.cpsr with t := bit v 0 }).branchTo v

/-- R280: B. -/
def execB (cond : Cond) (offset : BitVec 24) (s : State) : Result :=
  whenPassed cond s <|
    .next (s.branchTo (branchTarget Config.pcReadWide (offset.signExtend 32 <<< 2) s))

/-- R281: BL, the link register written first. -/
def execBl (cond : Cond) (offset : BitVec 24) (s : State) : Result :=
  whenPassed cond s <|
    .next ((s.setX 14 (s.pc + 4)).branchTo (branchTarget Config.pcReadWide (offset.signExtend 32 <<< 2) s))

/-- R282: BX. -/
def execBx (cond : Cond) (rn : Reg) (s : State) : Result :=
  whenPassed cond s (.next (s.exchange (s.x rn)))

/-- R283: SWI takes the supervisor call; the comment is ignored. -/
def execSwi (cond : Cond) (_comment : BitVec 24) (s : State) : Result :=
  whenPassed cond s (.next (s.supervisorCall 4))

/-- R290: a wide UNDEFINED word takes the undefined-instruction trap when its condition passes. -/
def execUndefined (cond : Cond) (s : State) : Result :=
  whenPassed cond s (.next (s.undefinedTrap 4))

end Sys2Proof.Machine
end

