-- ==== Sys2Proof/Machine/CompressedBranch.lean ====
section
/-! DEFINITION. Compressed branches and traps: BX of format 5, formats 16 to 19, UNDEFINED (R333, R390 to R410). -/

namespace Sys2Proof.Machine

/-- R390: a compressed branch by a displacement. -/
def compressedBranch (displacement : Word) (s : State) : Result :=
  .next (s.branchTo (branchTarget Config.pcReadCompressed displacement s))

/-- R390, R170: the conditional branch of format 16; a failed condition only advances. -/
def compressedCondBranch (cond : Cond) (offset : BitVec 8) (s : State) : Result :=
  if conditionPassed cond s.cpsr then compressedBranch (offset.signExtend 32 <<< 1) s else .next (s.advance 2)

/-- R390: B<cond>, the row of conditions 0 to 7. -/
def execCBcond0 (cond : Cond) (offset : BitVec 8) (s : State) : Result := compressedCondBranch cond offset s

/-- R390: B<cond>, the row of conditions 8 to 11. -/
def execCBcond8 (cond : Cond) (offset : BitVec 8) (s : State) : Result := compressedCondBranch cond offset s

/-- R390: B<cond>, the row of conditions 12 and 13. -/
def execCBcondC (cond : Cond) (offset : BitVec 8) (s : State) : Result := compressedCondBranch cond offset s

/-- R333: BX Rs. -/
def execCBx (rs : Reg) (s : State) : Result := .next (s.exchange (s.xc rs))

/-- R395: SWI takes the supervisor call; the link value is A + 2. -/
def execCSwi (_comment : BitVec 8) (s : State) : Result := .next (s.supervisorCall 2)

/-- R396: BKPT has no semantics; it meets BKPT_POLICY. -/
def execCBkpt (_comment : BitVec 8) (s : State) : Result := byPolicy Config.bkptPolicy .bkptPolicy 2 s

/-- R398: B, format 18. -/
def execCB (offset : BitVec 11) (s : State) : Result := compressedBranch (offset.signExtend 32 <<< 1) s

/-- R400: the first half of the long branch with link. -/
def execCBlh1 (offset : BitVec 11) (s : State) : Result :=
  .next ((s.advance 2).setX 14 (branchTarget Config.pcReadCompressed (offset.signExtend 32 <<< 12) s))

/-- R401: the second half; the link value is the next half-word's address with bit 0 set. -/
def execCBlh2 (imm : BitVec 11) (s : State) : Result :=
  .next ((s.setX 14 ((s.pc + 2) ||| 1#32)).branchTo (s.xc 14 + imm.setWidth 32 <<< 1))

/-- R410: a compressed word outside the 19 formats takes the undefined-instruction trap; the link value is A + 2. -/
def execCUndefined (s : State) : Result := .next (s.undefinedTrap 2)

end Sys2Proof.Machine
end

