-- ==== Sys2Proof/Machine/BlockTransfer.lean ====
section
/-! DEFINITION. Wide block transfers (R265 to R271). -/

namespace Sys2Proof.Machine

/-- R266: the words read, each with its register. -/
def loadList (s : State) (plan : List (Reg × Word)) : List (Reg × Word) := plan.map fun e => (e.1, s.memRead e.2 .word)

/-- R266, R268: writes the loaded registers other than r15, through the current bank or the User bank. -/
def State.setLoaded (userBank : Bool) (s : State) : List (Reg × Word) → State
  | [] => s
  | (i, v) :: es =>
    (if i = 15 then s else if userBank then s.setXu i v else s.setX i v).setLoaded userBank es

/-- R267: stores a value for each register of the plan, in ascending address order. -/
def State.storeList (value : Reg → Word) (s : State) : List (Reg × Word) → State
  | [] => s
  | (i, a) :: es => (s.memWrite a .word (value i)).storeList value es

/-- R267: the word a block store writes for register `i`: r15 as `storedPc`, the base register as its original value
(R269). -/
def blockStoreValue (storedPc : Word) (userBank : Bool) (rn : Reg) (s : State) (i : Reg) : Word :=
  if i = 15 then storedPc else if i = rn then s.x rn else if userBank then s.xu i else s.x i

/-- R266, R268 to R271: a block load of an instruction of `width` bytes. -/
def blockLoad (width : Word) (p u sb w : Bool) (rn : Reg) (rlist : BitVec 16) (s : State) : Result :=
  let restores := sb && bit rlist 15
  let userBank := sb && !bit rlist 15
  if rn = 15 then .refused .pcBlockBase
  else if userBank && w then .refused .userBankWriteback
  else
    let loaded := loadList s (blockPlan p u (s.x rn) rlist)
    let s1 := (s.advance width).setLoaded userBank loaded
    let s2 := if w && !(blockRegs rlist).contains rn then s1.setX rn (blockFinal u (s.x rn) rlist) else s1
    match loaded.lookup 15 with
    | none => .next s2
    | some v => if restores then s2.exceptionReturn v else .next (s2.branchTo v)

/-- R267 to R271: a block store of an instruction of `width` bytes. -/
def blockStore (width storedPc : Word) (p u sb w : Bool) (rn : Reg) (rlist : BitVec 16) (s : State) : Result :=
  if rn = 15 then .refused .pcBlockBase
  else if sb && w then .refused .userBankWriteback
  else
    let s1 := (s.advance width).storeList (blockStoreValue storedPc sb rn s) (blockPlan p u (s.x rn) rlist)
    .next (if w then s1.setX rn (blockFinal u (s.x rn) rlist) else s1)

/-- R266: LDM. -/
def execLdm (cond : Cond) (p u sb w : Bool) (rn : Reg) (rlist : BitVec 16) (s : State) : Result :=
  whenPassed cond s (blockLoad 4 p u sb w rn rlist s)

/-- R267: STM; a stored r15 is A + 12 (R271). -/
def execStm (cond : Cond) (p u sb w : Bool) (rn : Reg) (rlist : BitVec 16) (s : State) : Result :=
  whenPassed cond s (blockStore 4 (s.pc + Config.pcReadWideRegShift) p u sb w rn rlist s)

end Sys2Proof.Machine
end

