-- ==== Sys2Proof/Machine/DataProcessing.lean ====
section
/-! DEFINITION. Wide data-processing (R180 to R199): one shared frame, one definition per row. -/

namespace Sys2Proof.Machine

/-- R180: flags, then the result; a write of r15 overrides the advance (R12). -/
def aluCommit (width : Word) (setFlags writes : Bool) (rd : Reg) (out : AluOut) (sc : Bool) (s : State) : State :=
  let s1 := s.advance width
  let s2 := if setFlags then s1.withCpsr (s1.cpsr.setAlu out sc) else s1
  if writes then s2.setX rd out.result else s2

/-- R180, R181: the frame of the sixteen operations; `f` is the operation's own line, `writes` false for TST, TEQ, CMP
and CMN (with S clear they then do nothing, R197). -/
def dataProcessing (f : AluFn) (writes : Bool) (cond : Cond) (sf : Bool) (rn rd : Reg) (o : Op2) (s : State) : Result :=
  whenPassed cond s <|
    let b := operand2 o s
    let out := f (s.reg rn (op2PcOffset o)) b.1 s.cpsr.c
    if writes && rd == 15 && sf then s.exceptionReturn out.result
    else .next (aluCommit 4 sf writes rd out b.2 s)

/-- R182: AND, rotated immediate. -/
def execAndImm (cond : Cond) (sf : Bool) (rn rd : Reg) (rot : BitVec 4) (imm : BitVec 8) (s : State) : Result :=
  dataProcessing aluAnd true cond sf rn rd (.imm rot imm) s

/-- R182: AND, register shifted by an immediate. -/
def execAndShiftImm (cond : Cond) (sf : Bool) (rn rd : Reg) (shamt : BitVec 5) (kind : ShiftKind) (rm : Reg) (s : State) :
    Result :=
  dataProcessing aluAnd true cond sf rn rd (.shiftImm shamt kind rm) s

/-- R182: AND, register shifted by a register. -/
def execAndShiftReg (cond : Cond) (sf : Bool) (rn rd rs : Reg) (kind : ShiftKind) (rm : Reg) (s : State) : Result :=
  dataProcessing aluAnd true cond sf rn rd (.shiftReg rs kind rm) s

/-- R183: EOR, rotated immediate. -/
def execEorImm (cond : Cond) (sf : Bool) (rn rd : Reg) (rot : BitVec 4) (imm : BitVec 8) (s : State) : Result :=
  dataProcessing aluEor true cond sf rn rd (.imm rot imm) s

/-- R183: EOR, register shifted by an immediate. -/
def execEorShiftImm (cond : Cond) (sf : Bool) (rn rd : Reg) (shamt : BitVec 5) (kind : ShiftKind) (rm : Reg) (s : State) :
    Result :=
  dataProcessing aluEor true cond sf rn rd (.shiftImm shamt kind rm) s

/-- R183: EOR, register shifted by a register. -/
def execEorShiftReg (cond : Cond) (sf : Bool) (rn rd rs : Reg) (kind : ShiftKind) (rm : Reg) (s : State) : Result :=
  dataProcessing aluEor true cond sf rn rd (.shiftReg rs kind rm) s

/-- R184: SUB, rotated immediate. -/
def execSubImm (cond : Cond) (sf : Bool) (rn rd : Reg) (rot : BitVec 4) (imm : BitVec 8) (s : State) : Result :=
  dataProcessing aluSub true cond sf rn rd (.imm rot imm) s

/-- R184: SUB, register shifted by an immediate. -/
def execSubShiftImm (cond : Cond) (sf : Bool) (rn rd : Reg) (shamt : BitVec 5) (kind : ShiftKind) (rm : Reg) (s : State) :
    Result :=
  dataProcessing aluSub true cond sf rn rd (.shiftImm shamt kind rm) s

/-- R184: SUB, register shifted by a register. -/
def execSubShiftReg (cond : Cond) (sf : Bool) (rn rd rs : Reg) (kind : ShiftKind) (rm : Reg) (s : State) : Result :=
  dataProcessing aluSub true cond sf rn rd (.shiftReg rs kind rm) s

/-- R185: RSB, rotated immediate. -/
def execRsbImm (cond : Cond) (sf : Bool) (rn rd : Reg) (rot : BitVec 4) (imm : BitVec 8) (s : State) : Result :=
  dataProcessing aluRsb true cond sf rn rd (.imm rot imm) s

/-- R185: RSB, register shifted by an immediate. -/
def execRsbShiftImm (cond : Cond) (sf : Bool) (rn rd : Reg) (shamt : BitVec 5) (kind : ShiftKind) (rm : Reg) (s : State) :
    Result :=
  dataProcessing aluRsb true cond sf rn rd (.shiftImm shamt kind rm) s

/-- R185: RSB, register shifted by a register. -/
def execRsbShiftReg (cond : Cond) (sf : Bool) (rn rd rs : Reg) (kind : ShiftKind) (rm : Reg) (s : State) : Result :=
  dataProcessing aluRsb true cond sf rn rd (.shiftReg rs kind rm) s

/-- R186: ADD, rotated immediate. -/
def execAddImm (cond : Cond) (sf : Bool) (rn rd : Reg) (rot : BitVec 4) (imm : BitVec 8) (s : State) : Result :=
  dataProcessing aluAdd true cond sf rn rd (.imm rot imm) s

/-- R186: ADD, register shifted by an immediate. -/
def execAddShiftImm (cond : Cond) (sf : Bool) (rn rd : Reg) (shamt : BitVec 5) (kind : ShiftKind) (rm : Reg) (s : State) :
    Result :=
  dataProcessing aluAdd true cond sf rn rd (.shiftImm shamt kind rm) s

/-- R186: ADD, register shifted by a register. -/
def execAddShiftReg (cond : Cond) (sf : Bool) (rn rd rs : Reg) (kind : ShiftKind) (rm : Reg) (s : State) : Result :=
  dataProcessing aluAdd true cond sf rn rd (.shiftReg rs kind rm) s

/-- R187: ADC, rotated immediate. -/
def execAdcImm (cond : Cond) (sf : Bool) (rn rd : Reg) (rot : BitVec 4) (imm : BitVec 8) (s : State) : Result :=
  dataProcessing aluAdc true cond sf rn rd (.imm rot imm) s

/-- R187: ADC, register shifted by an immediate. -/
def execAdcShiftImm (cond : Cond) (sf : Bool) (rn rd : Reg) (shamt : BitVec 5) (kind : ShiftKind) (rm : Reg) (s : State) :
    Result :=
  dataProcessing aluAdc true cond sf rn rd (.shiftImm shamt kind rm) s

/-- R187: ADC, register shifted by a register. -/
def execAdcShiftReg (cond : Cond) (sf : Bool) (rn rd rs : Reg) (kind : ShiftKind) (rm : Reg) (s : State) : Result :=
  dataProcessing aluAdc true cond sf rn rd (.shiftReg rs kind rm) s

/-- R188: SBC, rotated immediate. -/
def execSbcImm (cond : Cond) (sf : Bool) (rn rd : Reg) (rot : BitVec 4) (imm : BitVec 8) (s : State) : Result :=
  dataProcessing aluSbc true cond sf rn rd (.imm rot imm) s

/-- R188: SBC, register shifted by an immediate. -/
def execSbcShiftImm (cond : Cond) (sf : Bool) (rn rd : Reg) (shamt : BitVec 5) (kind : ShiftKind) (rm : Reg) (s : State) :
    Result :=
  dataProcessing aluSbc true cond sf rn rd (.shiftImm shamt kind rm) s

/-- R188: SBC, register shifted by a register. -/
def execSbcShiftReg (cond : Cond) (sf : Bool) (rn rd rs : Reg) (kind : ShiftKind) (rm : Reg) (s : State) : Result :=
  dataProcessing aluSbc true cond sf rn rd (.shiftReg rs kind rm) s

/-- R189: RSC, rotated immediate. -/
def execRscImm (cond : Cond) (sf : Bool) (rn rd : Reg) (rot : BitVec 4) (imm : BitVec 8) (s : State) : Result :=
  dataProcessing aluRsc true cond sf rn rd (.imm rot imm) s

/-- R189: RSC, register shifted by an immediate. -/
def execRscShiftImm (cond : Cond) (sf : Bool) (rn rd : Reg) (shamt : BitVec 5) (kind : ShiftKind) (rm : Reg) (s : State) :
    Result :=
  dataProcessing aluRsc true cond sf rn rd (.shiftImm shamt kind rm) s

/-- R189: RSC, register shifted by a register. -/
def execRscShiftReg (cond : Cond) (sf : Bool) (rn rd rs : Reg) (kind : ShiftKind) (rm : Reg) (s : State) : Result :=
  dataProcessing aluRsc true cond sf rn rd (.shiftReg rs kind rm) s

/-- R190: TST, rotated immediate. -/
def execTstImm (cond : Cond) (sf : Bool) (rn rd : Reg) (rot : BitVec 4) (imm : BitVec 8) (s : State) : Result :=
  dataProcessing aluAnd false cond sf rn rd (.imm rot imm) s

/-- R190: TST, register shifted by an immediate. -/
def execTstShiftImm (cond : Cond) (sf : Bool) (rn rd : Reg) (shamt : BitVec 5) (kind : ShiftKind) (rm : Reg) (s : State) :
    Result :=
  dataProcessing aluAnd false cond sf rn rd (.shiftImm shamt kind rm) s

/-- R190: TST, register shifted by a register. -/
def execTstShiftReg (cond : Cond) (sf : Bool) (rn rd rs : Reg) (kind : ShiftKind) (rm : Reg) (s : State) : Result :=
  dataProcessing aluAnd false cond sf rn rd (.shiftReg rs kind rm) s

/-- R191: TEQ, rotated immediate. -/
def execTeqImm (cond : Cond) (sf : Bool) (rn rd : Reg) (rot : BitVec 4) (imm : BitVec 8) (s : State) : Result :=
  dataProcessing aluEor false cond sf rn rd (.imm rot imm) s

/-- R191: TEQ, register shifted by an immediate. -/
def execTeqShiftImm (cond : Cond) (sf : Bool) (rn rd : Reg) (shamt : BitVec 5) (kind : ShiftKind) (rm : Reg) (s : State) :
    Result :=
  dataProcessing aluEor false cond sf rn rd (.shiftImm shamt kind rm) s

/-- R191: TEQ, register shifted by a register. -/
def execTeqShiftReg (cond : Cond) (sf : Bool) (rn rd rs : Reg) (kind : ShiftKind) (rm : Reg) (s : State) : Result :=
  dataProcessing aluEor false cond sf rn rd (.shiftReg rs kind rm) s

/-- R192: CMP, rotated immediate. -/
def execCmpImm (cond : Cond) (sf : Bool) (rn rd : Reg) (rot : BitVec 4) (imm : BitVec 8) (s : State) : Result :=
  dataProcessing aluSub false cond sf rn rd (.imm rot imm) s

/-- R192: CMP, register shifted by an immediate. -/
def execCmpShiftImm (cond : Cond) (sf : Bool) (rn rd : Reg) (shamt : BitVec 5) (kind : ShiftKind) (rm : Reg) (s : State) :
    Result :=
  dataProcessing aluSub false cond sf rn rd (.shiftImm shamt kind rm) s

/-- R192: CMP, register shifted by a register. -/
def execCmpShiftReg (cond : Cond) (sf : Bool) (rn rd rs : Reg) (kind : ShiftKind) (rm : Reg) (s : State) : Result :=
  dataProcessing aluSub false cond sf rn rd (.shiftReg rs kind rm) s

/-- R193: CMN, rotated immediate. -/
def execCmnImm (cond : Cond) (sf : Bool) (rn rd : Reg) (rot : BitVec 4) (imm : BitVec 8) (s : State) : Result :=
  dataProcessing aluAdd false cond sf rn rd (.imm rot imm) s

/-- R193: CMN, register shifted by an immediate. -/
def execCmnShiftImm (cond : Cond) (sf : Bool) (rn rd : Reg) (shamt : BitVec 5) (kind : ShiftKind) (rm : Reg) (s : State) :
    Result :=
  dataProcessing aluAdd false cond sf rn rd (.shiftImm shamt kind rm) s

/-- R193: CMN, register shifted by a register. -/
def execCmnShiftReg (cond : Cond) (sf : Bool) (rn rd rs : Reg) (kind : ShiftKind) (rm : Reg) (s : State) : Result :=
  dataProcessing aluAdd false cond sf rn rd (.shiftReg rs kind rm) s

/-- R194: ORR, rotated immediate. -/
def execOrrImm (cond : Cond) (sf : Bool) (rn rd : Reg) (rot : BitVec 4) (imm : BitVec 8) (s : State) : Result :=
  dataProcessing aluOrr true cond sf rn rd (.imm rot imm) s

/-- R194: ORR, register shifted by an immediate. -/
def execOrrShiftImm (cond : Cond) (sf : Bool) (rn rd : Reg) (shamt : BitVec 5) (kind : ShiftKind) (rm : Reg) (s : State) :
    Result :=
  dataProcessing aluOrr true cond sf rn rd (.shiftImm shamt kind rm) s

/-- R194: ORR, register shifted by a register. -/
def execOrrShiftReg (cond : Cond) (sf : Bool) (rn rd rs : Reg) (kind : ShiftKind) (rm : Reg) (s : State) : Result :=
  dataProcessing aluOrr true cond sf rn rd (.shiftReg rs kind rm) s

/-- R195: MOV, rotated immediate. -/
def execMovImm (cond : Cond) (sf : Bool) (rn rd : Reg) (rot : BitVec 4) (imm : BitVec 8) (s : State) : Result :=
  dataProcessing aluMov true cond sf rn rd (.imm rot imm) s

/-- R195: MOV, register shifted by an immediate. -/
def execMovShiftImm (cond : Cond) (sf : Bool) (rn rd : Reg) (shamt : BitVec 5) (kind : ShiftKind) (rm : Reg) (s : State) :
    Result :=
  dataProcessing aluMov true cond sf rn rd (.shiftImm shamt kind rm) s

/-- R195: MOV, register shifted by a register. -/
def execMovShiftReg (cond : Cond) (sf : Bool) (rn rd rs : Reg) (kind : ShiftKind) (rm : Reg) (s : State) : Result :=
  dataProcessing aluMov true cond sf rn rd (.shiftReg rs kind rm) s

/-- R196: BIC, rotated immediate. -/
def execBicImm (cond : Cond) (sf : Bool) (rn rd : Reg) (rot : BitVec 4) (imm : BitVec 8) (s : State) : Result :=
  dataProcessing aluBic true cond sf rn rd (.imm rot imm) s

/-- R196: BIC, register shifted by an immediate. -/
def execBicShiftImm (cond : Cond) (sf : Bool) (rn rd : Reg) (shamt : BitVec 5) (kind : ShiftKind) (rm : Reg) (s : State) :
    Result :=
  dataProcessing aluBic true cond sf rn rd (.shiftImm shamt kind rm) s

/-- R196: BIC, register shifted by a register. -/
def execBicShiftReg (cond : Cond) (sf : Bool) (rn rd rs : Reg) (kind : ShiftKind) (rm : Reg) (s : State) : Result :=
  dataProcessing aluBic true cond sf rn rd (.shiftReg rs kind rm) s

/-- R198: MVN, rotated immediate. -/
def execMvnImm (cond : Cond) (sf : Bool) (rn rd : Reg) (rot : BitVec 4) (imm : BitVec 8) (s : State) : Result :=
  dataProcessing aluMvn true cond sf rn rd (.imm rot imm) s

/-- R198: MVN, register shifted by an immediate. -/
def execMvnShiftImm (cond : Cond) (sf : Bool) (rn rd : Reg) (shamt : BitVec 5) (kind : ShiftKind) (rm : Reg) (s : State) :
    Result :=
  dataProcessing aluMvn true cond sf rn rd (.shiftImm shamt kind rm) s

/-- R198: MVN, register shifted by a register. -/
def execMvnShiftReg (cond : Cond) (sf : Bool) (rn rd rs : Reg) (kind : ShiftKind) (rm : Reg) (s : State) : Result :=
  dataProcessing aluMvn true cond sf rn rd (.shiftReg rs kind rm) s

end Sys2Proof.Machine
end

