-- ==== Sys2Proof/Machine/CompressedAlu.lean ====
section
/-! DEFINITION. Compressed formats 1 to 5 (without BX), 12 and 13: the register instructions (R301 to R332, R370 to R373). -/

namespace Sys2Proof.Machine

/-- R300 (e), R112 to R115: an operation of formats 1 to 4, which always set the flags: the second operand is `b.1`, the
shifter carry `b.2`. -/
def compressedAlu (f : AluFn) (writes : Bool) (rd : LowReg) (a : Word) (b : Word × Bool) (s : State) : Result :=
  .next (aluCommit 2 true writes (lowReg rd) (f a b.1 s.cpsr.c) b.2 s)

/-- The second operand of a format that does not shift: the carry passes through (R308, R312). -/
def unshifted (v : Word) (s : State) : Word × Bool := (v, s.cpsr.c)

/-- R301 to R303: a shift by an immediate amount. -/
def compressedShiftImm (kind : ShiftKind) (shamt : BitVec 5) (rm rd : LowReg) (s : State) : Result :=
  compressedAlu aluMov true rd 0 (shift kind (s.xc (lowReg rm)) shamt.toNat s.cpsr.c false) s

/-- R314 to R316, R319: a shift by the low byte of a register. -/
def compressedShiftReg (kind : ShiftKind) (rs rd : LowReg) (s : State) : Result :=
  compressedAlu aluMov true rd 0
    (shift kind (s.xc (lowReg rd)) (bits (s.xc (lowReg rs)) 7 0 : BitVec 8).toNat s.cpsr.c true) s

/-- R312 to R327: a two-register operation of format 4. -/
def compressedAlu2 (f : AluFn) (writes : Bool) (rs rd : LowReg) (s : State) : Result :=
  compressedAlu f writes rd (s.xc (lowReg rd)) (unshifted (s.xc (lowReg rs)) s) s

/-- R308 to R311: an operation with an 8-bit immediate, rd being also the first operand. -/
def compressedAluImm8 (f : AluFn) (writes : Bool) (rd : LowReg) (imm : BitVec 8) (s : State) : Result :=
  compressedAlu f writes rd (s.xc (lowReg rd)) (unshifted (imm.setWidth 32) s) s

/-- R301: LSL Rd, Rs, #n. -/
def execCLslImm (shamt : BitVec 5) (rm rd : LowReg) (s : State) : Result :=
  compressedShiftImm .lsl shamt rm rd s

/-- R302: LSR Rd, Rs, #n. -/
def execCLsrImm (shamt : BitVec 5) (rm rd : LowReg) (s : State) : Result :=
  compressedShiftImm .lsr shamt rm rd s

/-- R303: ASR Rd, Rs, #n. -/
def execCAsrImm (shamt : BitVec 5) (rm rd : LowReg) (s : State) : Result :=
  compressedShiftImm .asr shamt rm rd s

/-- R304: ADD Rd, Rs, Rn. -/
def execCAddReg (rm rn rd : LowReg) (s : State) : Result :=
  compressedAlu aluAdd true rd (s.xc (lowReg rn)) (unshifted (s.xc (lowReg rm)) s) s

/-- R306: SUB Rd, Rs, Rn. -/
def execCSubReg (rm rn rd : LowReg) (s : State) : Result :=
  compressedAlu aluSub true rd (s.xc (lowReg rn)) (unshifted (s.xc (lowReg rm)) s) s

/-- R305: ADD Rd, Rs, #imm3. -/
def execCAddImm3 (imm : BitVec 3) (rn rd : LowReg) (s : State) : Result :=
  compressedAlu aluAdd true rd (s.xc (lowReg rn)) (unshifted (imm.setWidth 32) s) s

/-- R307: SUB Rd, Rs, #imm3. -/
def execCSubImm3 (imm : BitVec 3) (rn rd : LowReg) (s : State) : Result :=
  compressedAlu aluSub true rd (s.xc (lowReg rn)) (unshifted (imm.setWidth 32) s) s

/-- R308: MOV Rd, #imm8. -/
def execCMovImm8 (rd : LowReg) (imm : BitVec 8) (s : State) : Result :=
  compressedAluImm8 aluMov true rd imm s

/-- R309: CMP Rd, #imm8. -/
def execCCmpImm8 (rd : LowReg) (imm : BitVec 8) (s : State) : Result :=
  compressedAluImm8 aluSub false rd imm s

/-- R310: ADD Rd, #imm8. -/
def execCAddImm8 (rd : LowReg) (imm : BitVec 8) (s : State) : Result :=
  compressedAluImm8 aluAdd true rd imm s

/-- R311: SUB Rd, #imm8. -/
def execCSubImm8 (rd : LowReg) (imm : BitVec 8) (s : State) : Result :=
  compressedAluImm8 aluSub true rd imm s

/-- R312: AND Rd, Rs. -/
def execCAnd (rs rd : LowReg) (s : State) : Result :=
  compressedAlu2 aluAnd true rs rd s

/-- R313: EOR Rd, Rs. -/
def execCEor (rs rd : LowReg) (s : State) : Result :=
  compressedAlu2 aluEor true rs rd s

/-- R314: LSL Rd, Rs. -/
def execCLslReg (rs rd : LowReg) (s : State) : Result :=
  compressedShiftReg .lsl rs rd s

/-- R315: LSR Rd, Rs. -/
def execCLsrReg (rs rd : LowReg) (s : State) : Result :=
  compressedShiftReg .lsr rs rd s

/-- R316: ASR Rd, Rs. -/
def execCAsrReg (rs rd : LowReg) (s : State) : Result :=
  compressedShiftReg .asr rs rd s

/-- R317: ADC Rd, Rs. -/
def execCAdc (rs rd : LowReg) (s : State) : Result :=
  compressedAlu2 aluAdc true rs rd s

/-- R318: SBC Rd, Rs. -/
def execCSbc (rs rd : LowReg) (s : State) : Result :=
  compressedAlu2 aluSbc true rs rd s

/-- R319: ROR Rd, Rs. -/
def execCRorReg (rs rd : LowReg) (s : State) : Result :=
  compressedShiftReg .ror rs rd s

/-- R320: TST Rd, Rs. -/
def execCTst (rs rd : LowReg) (s : State) : Result :=
  compressedAlu2 aluAnd false rs rd s

/-- R321: NEG Rd, Rs is RSB Rd, Rs, #0. -/
def execCNeg (rs rd : LowReg) (s : State) : Result :=
  compressedAlu aluRsb true rd (s.xc (lowReg rs)) (unshifted 0 s) s

/-- R322: CMP Rd, Rs. -/
def execCCmp (rs rd : LowReg) (s : State) : Result :=
  compressedAlu2 aluSub false rs rd s

/-- R323: CMN Rd, Rs. -/
def execCCmn (rs rd : LowReg) (s : State) : Result :=
  compressedAlu2 aluAdd false rs rd s

/-- R324: ORR Rd, Rs. -/
def execCOrr (rs rd : LowReg) (s : State) : Result :=
  compressedAlu2 aluOrr true rs rd s

/-- R325, R218: MUL Rd, Rs. -/
def execCMul (rs rd : LowReg) (s : State) : Result :=
  let r := s.xc (lowReg rd) * s.xc (lowReg rs)
  let s1 := s.advance 2
  .next ((s1.withCpsr (s1.cpsr.setMul r s1.free)).setX (lowReg rd) r)

/-- R326: BIC Rd, Rs. -/
def execCBic (rs rd : LowReg) (s : State) : Result :=
  compressedAlu2 aluBic true rs rd s

/-- R327: MVN Rd, Rs. -/
def execCMvn (rs rd : LowReg) (s : State) : Result :=
  compressedAlu2 aluMvn true rs rd s

/-- R330: ADD with full register numbers; no flags. -/
def execCAddHi (rs rd : Reg) (s : State) : Result := .next ((s.advance 2).setX rd (s.xc rd + s.xc rs))

/-- R331: CMP with full register numbers. -/
def execCCmpHi (rs rd : Reg) (s : State) : Result :=
  .next (aluCommit 2 true false rd (aluSub (s.xc rd) (s.xc rs) s.cpsr.c) s.cpsr.c s)

/-- R332: MOV with full register numbers; no flags. -/
def execCMovHi (rs rd : Reg) (s : State) : Result := .next ((s.advance 2).setX rd (s.xc rs))

/-- R300 (c): the program counter value of formats 6 and 12, bits 1:0 cleared. -/
def pcBase (s : State) : Word := s.xc 15 &&& 0xFFFFFFFC#32

/-- A word-scaled immediate (R132). -/
def scaled4 {n : Nat} (imm : BitVec n) : Word := imm.setWidth 32 <<< 2

/-- R370: ADD Rd, PC, #imm; no flags. -/
def execCAddPc (rd : LowReg) (imm : BitVec 8) (s : State) : Result :=
  .next ((s.advance 2).setX (lowReg rd) (pcBase s + scaled4 imm))

/-- R371: ADD Rd, SP, #imm; no flags. -/
def execCAddSp (rd : LowReg) (imm : BitVec 8) (s : State) : Result :=
  .next ((s.advance 2).setX (lowReg rd) (s.xc 13 + scaled4 imm))

/-- R372: ADD SP, #imm; no flags. -/
def execCAddSpImm (imm : BitVec 7) (s : State) : Result := .next ((s.advance 2).setX 13 (s.xc 13 + scaled4 imm))

/-- R373: SUB SP, #imm; no flags. -/
def execCSubSpImm (imm : BitVec 7) (s : State) : Result := .next ((s.advance 2).setX 13 (s.xc 13 - scaled4 imm))

end Sys2Proof.Machine
end

