-- ==== Sys2Proof/Machine/Transfer.lean ====
section
/-! DEFINITION. Wide single, half-word, signed and swap transfers (R240 to R261). -/

namespace Sys2Proof.Machine

/-- R241, R343: a word load. -/
def loadWord (s : State) (a : Word) : Word := s.memRead a .word
/-- R243: a byte load, zero-extended. -/
def loadByte (s : State) (a : Word) : Word := s.memRead a .byte
/-- R251: a half-word load, zero-extended. -/
def loadHalf (s : State) (a : Word) : Word := s.memRead a .half
/-- R253: a byte load, sign-extended. -/
def loadSignedByte (s : State) (a : Word) : Word := ((s.memRead a .byte).setWidth 8).signExtend 32
/-- R254: a half-word load, sign-extended. -/
def loadSignedHalf (s : State) (a : Word) : Word := ((s.memRead a .half).setWidth 16).signExtend 32

/-- R240: write-back of the target to the base register, when the instruction does it. -/
def State.writeBase (s : State) (wb : Bool) (rn : Reg) (v : Word) : State := if wb then s.setX rn v else s

/-- R245, R250: the operand combinations the spec refuses. -/
def transferGuard (o : Offset) (p w : Bool) (rn : Reg) (body : Result) : Result :=
  if offsetIsPc o then .refused .pcOffset
  else if writesBack p w && rn == 15 then .refused .pcWriteback
  else body

/-- R240, R241, R250: a load; the loaded value is written last. -/
def loadTransfer (load : State → Word → Word) (cond : Cond) (p u w : Bool) (rn rd : Reg) (o : Offset) (s : State) :
    Result :=
  whenPassed cond s <| transferGuard o p w rn <|
    let base := s.x rn
    let off := offsetValue o s
    let v := load s (transferAddr p u base off)
    .next (((s.advance 4).writeBase (writesBack p w) rn (transferTarget u base off)).setX rd v)

/-- R240, R242, R250: a store; the data is read before write-back. -/
def storeTransfer (sz : Size) (cond : Cond) (p u w : Bool) (rn rd : Reg) (o : Offset) (s : State) : Result :=
  whenPassed cond s <| transferGuard o p w rn <|
    let base := s.x rn
    let off := offsetValue o s
    .next (((s.advance 4).memWrite (transferAddr p u base off) sz (storeData rd s)).writeBase (writesBack p w) rn
      (transferTarget u base off))

/-- R241: LDR, immediate offset. -/
def execLdrImm (cond : Cond) (p u w : Bool) (rn rd : Reg) (imm : BitVec 12) (s : State) : Result :=
  loadTransfer loadWord cond p u w rn rd (.imm (imm.setWidth 32)) s

/-- R241: LDR, shifted register offset. -/
def execLdrReg (cond : Cond) (p u w : Bool) (rn rd : Reg) (shamt : BitVec 5) (kind : ShiftKind) (rm : Reg)
    (s : State) : Result :=
  loadTransfer loadWord cond p u w rn rd (.shifted shamt kind rm) s

/-- R242: STR, immediate offset. -/
def execStrImm (cond : Cond) (p u w : Bool) (rn rd : Reg) (imm : BitVec 12) (s : State) : Result :=
  storeTransfer .word cond p u w rn rd (.imm (imm.setWidth 32)) s

/-- R242: STR, shifted register offset. -/
def execStrReg (cond : Cond) (p u w : Bool) (rn rd : Reg) (shamt : BitVec 5) (kind : ShiftKind) (rm : Reg)
    (s : State) : Result :=
  storeTransfer .word cond p u w rn rd (.shifted shamt kind rm) s

/-- R243: LDRB, immediate offset. -/
def execLdrbImm (cond : Cond) (p u w : Bool) (rn rd : Reg) (imm : BitVec 12) (s : State) : Result :=
  loadTransfer loadByte cond p u w rn rd (.imm (imm.setWidth 32)) s

/-- R243: LDRB, shifted register offset. -/
def execLdrbReg (cond : Cond) (p u w : Bool) (rn rd : Reg) (shamt : BitVec 5) (kind : ShiftKind) (rm : Reg)
    (s : State) : Result :=
  loadTransfer loadByte cond p u w rn rd (.shifted shamt kind rm) s

/-- R244: STRB, immediate offset. -/
def execStrbImm (cond : Cond) (p u w : Bool) (rn rd : Reg) (imm : BitVec 12) (s : State) : Result :=
  storeTransfer .byte cond p u w rn rd (.imm (imm.setWidth 32)) s

/-- R244: STRB, shifted register offset. -/
def execStrbReg (cond : Cond) (p u w : Bool) (rn rd : Reg) (shamt : BitVec 5) (kind : ShiftKind) (rm : Reg)
    (s : State) : Result :=
  storeTransfer .byte cond p u w rn rd (.shifted shamt kind rm) s

/-- R251: LDRH, immediate offset. -/
def execLdrhImm (cond : Cond) (p u w : Bool) (rn rd : Reg) (imm : BitVec 8) (s : State) : Result :=
  loadTransfer loadHalf cond p u w rn rd (.imm (imm.setWidth 32)) s

/-- R251: LDRH, register offset. -/
def execLdrhReg (cond : Cond) (p u w : Bool) (rn rd rm : Reg) (s : State) : Result :=
  loadTransfer loadHalf cond p u w rn rd (.plain rm) s

/-- R252: STRH, immediate offset. -/
def execStrhImm (cond : Cond) (p u w : Bool) (rn rd : Reg) (imm : BitVec 8) (s : State) : Result :=
  storeTransfer .half cond p u w rn rd (.imm (imm.setWidth 32)) s

/-- R252: STRH, register offset. -/
def execStrhReg (cond : Cond) (p u w : Bool) (rn rd rm : Reg) (s : State) : Result :=
  storeTransfer .half cond p u w rn rd (.plain rm) s

/-- R253: LDRSB, immediate offset. -/
def execLdrsbImm (cond : Cond) (p u w : Bool) (rn rd : Reg) (imm : BitVec 8) (s : State) : Result :=
  loadTransfer loadSignedByte cond p u w rn rd (.imm (imm.setWidth 32)) s

/-- R253: LDRSB, register offset. -/
def execLdrsbReg (cond : Cond) (p u w : Bool) (rn rd rm : Reg) (s : State) : Result :=
  loadTransfer loadSignedByte cond p u w rn rd (.plain rm) s

/-- R254: LDRSH, immediate offset. -/
def execLdrshImm (cond : Cond) (p u w : Bool) (rn rd : Reg) (imm : BitVec 8) (s : State) : Result :=
  loadTransfer loadSignedHalf cond p u w rn rd (.imm (imm.setWidth 32)) s

/-- R254: LDRSH, register offset. -/
def execLdrshReg (cond : Cond) (p u w : Bool) (rn rd rm : Reg) (s : State) : Result :=
  loadTransfer loadSignedHalf cond p u w rn rd (.plain rm) s

/-- R260, R261: the swap; its read and its write are adjacent. -/
def swap (sz : Size) (cond : Cond) (rn rd rm : Reg) (s : State) : Result :=
  whenPassed cond s <|
    if rn == 15 || rd == 15 || rm == 15 then .refused .pcInSwap
    else .next (((s.advance 4).memWrite (s.x rn) sz (s.x rm)).setX rd (s.memRead (s.x rn) sz))

/-- R260: SWP. -/
def execSwp (cond : Cond) (rn rd rm : Reg) (s : State) : Result := swap .word cond rn rd rm s

/-- R261: SWPB. -/
def execSwpb (cond : Cond) (rn rd rm : Reg) (s : State) : Result := swap .byte cond rn rd rm s

end Sys2Proof.Machine
end

