-- ==== Sys2Proof/Machine/CompressedTransfer.lean ====
section
/-! DEFINITION. Compressed formats 6 to 11, 14 and 15: the memory instructions (R340 to R348, R360 to R367, R380 to R384). -/

namespace Sys2Proof.Machine

/-- A load of a compressed format: no write-back, no flags. -/
def compressedLoad (load : State → Word → Word) (rd : LowReg) (a : Word) (s : State) : Result :=
  .next ((s.advance 2).setX (lowReg rd) (load s a))

/-- A store of a compressed format: no write-back, no flags. -/
def compressedStore (sz : Size) (rd : LowReg) (a : Word) (s : State) : Result :=
  .next ((s.advance 2).memWrite a sz (s.xc (lowReg rd)))

/-- Formats 7 and 8: base plus offset register. -/
def addrReg (rm rn : LowReg) (s : State) : Word := s.xc (lowReg rn) + s.xc (lowReg rm)

/-- Formats 9 and 10: base plus the 5-bit offset scaled by the access width (R132). -/
def addrImm (scale : Nat) (imm : BitVec 5) (rn : LowReg) (s : State) : Word :=
  s.xc (lowReg rn) + imm.setWidth 32 <<< scale

/-- Format 11: the current mode's stack pointer plus the word-scaled offset. -/
def addrSp (imm : BitVec 8) (s : State) : Word := s.xc 13 + scaled4 imm

/-- R340: LDR Rd, [PC, #imm]. -/
def execCLdrPc (rd : LowReg) (imm : BitVec 8) (s : State) : Result :=
  compressedLoad loadWord rd (pcBase s + scaled4 imm) s

/-- R341: STR Rd, [Rb, Ro]. -/
def execCStrReg (rm rn rd : LowReg) (s : State) : Result :=
  compressedStore .word rd (addrReg rm rn s) s

/-- R342: STRB Rd, [Rb, Ro]. -/
def execCStrbReg (rm rn rd : LowReg) (s : State) : Result :=
  compressedStore .byte rd (addrReg rm rn s) s

/-- R343: LDR Rd, [Rb, Ro]. -/
def execCLdrReg (rm rn rd : LowReg) (s : State) : Result :=
  compressedLoad loadWord rd (addrReg rm rn s) s

/-- R344: LDRB Rd, [Rb, Ro]. -/
def execCLdrbReg (rm rn rd : LowReg) (s : State) : Result :=
  compressedLoad loadByte rd (addrReg rm rn s) s

/-- R345: STRH Rd, [Rb, Ro]. -/
def execCStrhReg (rm rn rd : LowReg) (s : State) : Result :=
  compressedStore .half rd (addrReg rm rn s) s

/-- R347: LDRSB Rd, [Rb, Ro]. -/
def execCLdrsbReg (rm rn rd : LowReg) (s : State) : Result :=
  compressedLoad loadSignedByte rd (addrReg rm rn s) s

/-- R346: LDRH Rd, [Rb, Ro]. -/
def execCLdrhReg (rm rn rd : LowReg) (s : State) : Result :=
  compressedLoad loadHalf rd (addrReg rm rn s) s

/-- R348: LDRSH Rd, [Rb, Ro]. -/
def execCLdrshReg (rm rn rd : LowReg) (s : State) : Result :=
  compressedLoad loadSignedHalf rd (addrReg rm rn s) s

/-- R360: STR Rd, [Rb, #imm]. -/
def execCStrImm (imm : BitVec 5) (rn rd : LowReg) (s : State) : Result :=
  compressedStore .word rd (addrImm 2 imm rn s) s

/-- R361: LDR Rd, [Rb, #imm]. -/
def execCLdrImm (imm : BitVec 5) (rn rd : LowReg) (s : State) : Result :=
  compressedLoad loadWord rd (addrImm 2 imm rn s) s

/-- R362: STRB Rd, [Rb, #imm]. -/
def execCStrbImm (imm : BitVec 5) (rn rd : LowReg) (s : State) : Result :=
  compressedStore .byte rd (addrImm 0 imm rn s) s

/-- R363: LDRB Rd, [Rb, #imm]. -/
def execCLdrbImm (imm : BitVec 5) (rn rd : LowReg) (s : State) : Result :=
  compressedLoad loadByte rd (addrImm 0 imm rn s) s

/-- R364: STRH Rd, [Rb, #imm]. -/
def execCStrhImm (imm : BitVec 5) (rn rd : LowReg) (s : State) : Result :=
  compressedStore .half rd (addrImm 1 imm rn s) s

/-- R365: LDRH Rd, [Rb, #imm]. -/
def execCLdrhImm (imm : BitVec 5) (rn rd : LowReg) (s : State) : Result :=
  compressedLoad loadHalf rd (addrImm 1 imm rn s) s

/-- R366: STR Rd, [SP, #imm]. -/
def execCStrSp (rd : LowReg) (imm : BitVec 8) (s : State) : Result :=
  compressedStore .word rd (addrSp imm s) s

/-- R367: LDR Rd, [SP, #imm]. -/
def execCLdrSp (rd : LowReg) (imm : BitVec 8) (s : State) : Result :=
  compressedLoad loadWord rd (addrSp imm s) s

/-- R380: PUSH, the wide STMDB sp! with r14 added by R; a stored r15 is a free value (R384). -/
def execCPush (r : Bool) (rlist : BitVec 8) (s : State) : Result :=
  blockStore 2 (Config.storedPc s.free) true false false true 13 (rlist.setWidth 16 ||| flag 16 r 14) s

/-- R381: POP, the wide LDMIA sp! with r15 added by R. -/
def execCPop (r : Bool) (rlist : BitVec 8) (s : State) : Result :=
  blockLoad 2 false true false true 13 (rlist.setWidth 16 ||| flag 16 r 15) s

/-- R382: STMIA Rb!; a stored r15 is a free value (R384). -/
def execCStmia (rn : LowReg) (rlist : BitVec 8) (s : State) : Result :=
  blockStore 2 (Config.storedPc s.free) false true false true (lowReg rn) (rlist.setWidth 16) s

/-- R383: LDMIA Rb!. -/
def execCLdmia (rn : LowReg) (rlist : BitVec 8) (s : State) : Result :=
  blockLoad 2 false true false true (lowReg rn) (rlist.setWidth 16) s

end Sys2Proof.Machine
end

