-- ==== Sys2Proof/Machine/Multiply.lean ====
section
/-! DEFINITION. Wide multiply (R210 to R218). -/

namespace Sys2Proof.Machine

/-- R210: whether r15 is among a multiply's operands and destinations. -/
def namesPc (regs : List Reg) : Bool := regs.contains 15

/-- R210, R211, R212, R218: a 32-bit multiply with result `r`; `regs` are its operands and destination. -/
def multiplyShort (cond : Cond) (sf : Bool) (regs : List Reg) (rd : Reg) (r : Word) (s : State) : Result :=
  whenPassed cond s <|
    if namesPc regs then .refused .pcInMultiply
    else
      let s1 := s.advance 4
      let s2 := if sf then s1.withCpsr (s1.cpsr.setMul r s1.free) else s1
      .next (s2.setX rd r)

/-- R210, R213 to R216, R218: a long multiply with result `r`; the low word is written first, the high word last. -/
def multiplyLong (cond : Cond) (sf : Bool) (rd rn rs rm : Reg) (r : BitVec 64) (s : State) : Result :=
  whenPassed cond s <|
    if namesPc [rd, rn, rs, rm] then .refused .pcInMultiply
    else
      let s1 := s.advance 4
      let s2 := if sf then s1.withCpsr (s1.cpsr.setMulLong r s1.free) else s1
      .next ((s2.setX rn (bits r 31 0)).setX rd (bits r 63 32))

/-- R164: the exact unsigned 64-bit product. -/
def unsignedProduct (a b : Word) : BitVec 64 := a.setWidth 64 * b.setWidth 64

/-- R164: the exact signed 64-bit product. -/
def signedProduct (a b : Word) : BitVec 64 := a.signExtend 64 * b.signExtend 64

/-- R214, R216: the old RdHi : RdLo. -/
def longAccumulator (rd rn : Reg) (s : State) : BitVec 64 := s.x rd ++ s.x rn

/-- R211: MUL; the field `rn` is no operand of it. -/
def execMul (cond : Cond) (sf : Bool) (rd _rn rs rm : Reg) (s : State) : Result :=
  multiplyShort cond sf [rd, rs, rm] rd (s.x rm * s.x rs) s

/-- R212: MLA. -/
def execMla (cond : Cond) (sf : Bool) (rd rn rs rm : Reg) (s : State) : Result :=
  multiplyShort cond sf [rd, rn, rs, rm] rd (s.x rm * s.x rs + s.x rn) s

/-- R213: UMULL. -/
def execUmull (cond : Cond) (sf : Bool) (rd rn rs rm : Reg) (s : State) : Result :=
  multiplyLong cond sf rd rn rs rm (unsignedProduct (s.x rm) (s.x rs)) s

/-- R214: UMLAL. -/
def execUmlal (cond : Cond) (sf : Bool) (rd rn rs rm : Reg) (s : State) : Result :=
  multiplyLong cond sf rd rn rs rm (unsignedProduct (s.x rm) (s.x rs) + longAccumulator rd rn s) s

/-- R215: SMULL. -/
def execSmull (cond : Cond) (sf : Bool) (rd rn rs rm : Reg) (s : State) : Result :=
  multiplyLong cond sf rd rn rs rm (signedProduct (s.x rm) (s.x rs)) s

/-- R216: SMLAL. -/
def execSmlal (cond : Cond) (sf : Bool) (rd rn rs rm : Reg) (s : State) : Result :=
  multiplyLong cond sf rd rn rs rm (signedProduct (s.x rm) (s.x rs) + longAccumulator rd rn s) s

/-- R217: MULHALF has no semantics; a passed condition meets MULHALF_POLICY. -/
def execMulhalf (cond : Cond) (_rd _rn _rs _rm : Reg) (_hiOp _hiYx : BitVec 2) (s : State) : Result :=
  whenPassed cond s (byPolicy Config.mulhalfPolicy .mulhalfPolicy 4 s)

end Sys2Proof.Machine
end

