-- ==== Sys2Proof/Machine/PsrTransfer.lean ====
section
/-! DEFINITION. Wide status register transfer (R230 to R234). -/

namespace Sys2Proof.Machine

/-- R231: the status bits a field mask selects that have storage. -/
def msrMask (fmask : BitVec 4) : Word :=
  (if bit fmask 3 then 0xF0000000#32 else 0#32) ||| (if bit fmask 0 then 0x000000FF#32 else 0#32)

/-- R39, R231: in User mode only the flags may change. -/
def msrCpsrMask (m : Mode) (fmask : BitVec 4) : Word :=
  if m.privileged then msrMask fmask else msrMask fmask &&& 0xF0000000#32

/-- R231: a status word with the selected bits of `v`. -/
def Psr.merge (p : Psr) (mask v : Word) : Psr := Psr.unpack ((p.pack &&& ~~~mask) ||| (v &&& mask))

/-- R231: MSR with source value `v`. -/
def msrWrite (cond : Cond) (psr : PsrSel) (fmask : BitVec 4) (v : Word) (s : State) : Result :=
  whenPassed cond s <|
    let s1 := s.advance 4
    match psr with
    | .cpsr => .next (s1.withCpsr (s.cpsr.merge (msrCpsrMask s.cpsr.mode fmask) v))
    | .spsr =>
      match s.spsr with
      | none => .refused .noSpsr
      | some p => .next (s1.setSpsrOf s.cpsr.mode (p.merge (msrMask fmask) v))

/-- R230: MRS. -/
def execMrs (cond : Cond) (psr : PsrSel) (rd : Reg) (s : State) : Result :=
  whenPassed cond s <|
    match psr with
    | .cpsr => .next ((s.advance 4).setX rd s.cpsr.pack)
    | .spsr =>
      match s.spsr with
      | none => .refused .noSpsr
      | some p => .next ((s.advance 4).setX rd p.pack)

/-- R231: MSR, register form. -/
def execMsrReg (cond : Cond) (psr : PsrSel) (fmask : BitVec 4) (rm : Reg) (s : State) : Result :=
  msrWrite cond psr fmask (s.x rm) s

/-- R231: MSR, immediate form. -/
def execMsrImm (cond : Cond) (psr : PsrSel) (fmask rot : BitVec 4) (imm : BitVec 8) (s : State) : Result :=
  msrWrite cond psr fmask (rotatedImm rot imm) s

end Sys2Proof.Machine
end

