-- ==== Sys2Proof/Machine/Dispatch.lean ====
section
/-! DEFINITION. The meaning of every instruction: one arm per constructor, in the opcode table's order. -/

namespace Sys2Proof.Machine

def exec (i : Instr) (s : State) : Host.Outcome State Fault Refusal :=
  match i with
  | .bx cond rn => Sys2Proof.Machine.execBx cond rn s
  | .swi cond comment => Sys2Proof.Machine.execSwi cond comment s
  | .b cond offset => Sys2Proof.Machine.execB cond offset s
  | .bl cond offset => Sys2Proof.Machine.execBl cond offset s
  | .ldrImm cond p u w rn rd imm => Sys2Proof.Machine.execLdrImm cond p u w rn rd imm s
  | .ldrReg cond p u w rn rd shamt kind rm => Sys2Proof.Machine.execLdrReg cond p u w rn rd shamt kind rm s
  | .strImm cond p u w rn rd imm => Sys2Proof.Machine.execStrImm cond p u w rn rd imm s
  | .strReg cond p u w rn rd shamt kind rm => Sys2Proof.Machine.execStrReg cond p u w rn rd shamt kind rm s
  | .ldrbImm cond p u w rn rd imm => Sys2Proof.Machine.execLdrbImm cond p u w rn rd imm s
  | .ldrbReg cond p u w rn rd shamt kind rm => Sys2Proof.Machine.execLdrbReg cond p u w rn rd shamt kind rm s
  | .strbImm cond p u w rn rd imm => Sys2Proof.Machine.execStrbImm cond p u w rn rd imm s
  | .strbReg cond p u w rn rd shamt kind rm => Sys2Proof.Machine.execStrbReg cond p u w rn rd shamt kind rm s
  | .ldm cond p u sb w rn rlist => Sys2Proof.Machine.execLdm cond p u sb w rn rlist s
  | .stm cond p u sb w rn rlist => Sys2Proof.Machine.execStm cond p u sb w rn rlist s
  | .swp cond rn rd rm => Sys2Proof.Machine.execSwp cond rn rd rm s
  | .swpb cond rn rd rm => Sys2Proof.Machine.execSwpb cond rn rd rm s
  | .ldrhImm cond p u w rn rd imm => Sys2Proof.Machine.execLdrhImm cond p u w rn rd imm s
  | .ldrhReg cond p u w rn rd rm => Sys2Proof.Machine.execLdrhReg cond p u w rn rd rm s
  | .strhImm cond p u w rn rd imm => Sys2Proof.Machine.execStrhImm cond p u w rn rd imm s
  | .strhReg cond p u w rn rd rm => Sys2Proof.Machine.execStrhReg cond p u w rn rd rm s
  | .ldrsbImm cond p u w rn rd imm => Sys2Proof.Machine.execLdrsbImm cond p u w rn rd imm s
  | .ldrsbReg cond p u w rn rd rm => Sys2Proof.Machine.execLdrsbReg cond p u w rn rd rm s
  | .ldrshImm cond p u w rn rd imm => Sys2Proof.Machine.execLdrshImm cond p u w rn rd imm s
  | .ldrshReg cond p u w rn rd rm => Sys2Proof.Machine.execLdrshReg cond p u w rn rd rm s
  | .mul cond sf rd rn rs rm => Sys2Proof.Machine.execMul cond sf rd rn rs rm s
  | .mla cond sf rd rn rs rm => Sys2Proof.Machine.execMla cond sf rd rn rs rm s
  | .umull cond sf rd rn rs rm => Sys2Proof.Machine.execUmull cond sf rd rn rs rm s
  | .umlal cond sf rd rn rs rm => Sys2Proof.Machine.execUmlal cond sf rd rn rs rm s
  | .smull cond sf rd rn rs rm => Sys2Proof.Machine.execSmull cond sf rd rn rs rm s
  | .smlal cond sf rd rn rs rm => Sys2Proof.Machine.execSmlal cond sf rd rn rs rm s
  | .mulhalf cond rd rn rs rm hiOp hiYx => Sys2Proof.Machine.execMulhalf cond rd rn rs rm hiOp hiYx s
  | .mrs cond psr rd => Sys2Proof.Machine.execMrs cond psr rd s
  | .msrReg cond psr fmask rm => Sys2Proof.Machine.execMsrReg cond psr fmask rm s
  | .msrImm cond psr fmask rot imm => Sys2Proof.Machine.execMsrImm cond psr fmask rot imm s
  | .andImm cond sf rn rd rot imm => Sys2Proof.Machine.execAndImm cond sf rn rd rot imm s
  | .andShiftImm cond sf rn rd shamt kind rm => Sys2Proof.Machine.execAndShiftImm cond sf rn rd shamt kind rm s
  | .andShiftReg cond sf rn rd rs kind rm => Sys2Proof.Machine.execAndShiftReg cond sf rn rd rs kind rm s
  | .eorImm cond sf rn rd rot imm => Sys2Proof.Machine.execEorImm cond sf rn rd rot imm s
  | .eorShiftImm cond sf rn rd shamt kind rm => Sys2Proof.Machine.execEorShiftImm cond sf rn rd shamt kind rm s
  | .eorShiftReg cond sf rn rd rs kind rm => Sys2Proof.Machine.execEorShiftReg cond sf rn rd rs kind rm s
  | .subImm cond sf rn rd rot imm => Sys2Proof.Machine.execSubImm cond sf rn rd rot imm s
  | .subShiftImm cond sf rn rd shamt kind rm => Sys2Proof.Machine.execSubShiftImm cond sf rn rd shamt kind rm s
  | .subShiftReg cond sf rn rd rs kind rm => Sys2Proof.Machine.execSubShiftReg cond sf rn rd rs kind rm s
  | .rsbImm cond sf rn rd rot imm => Sys2Proof.Machine.execRsbImm cond sf rn rd rot imm s
  | .rsbShiftImm cond sf rn rd shamt kind rm => Sys2Proof.Machine.execRsbShiftImm cond sf rn rd shamt kind rm s
  | .rsbShiftReg cond sf rn rd rs kind rm => Sys2Proof.Machine.execRsbShiftReg cond sf rn rd rs kind rm s
  | .addImm cond sf rn rd rot imm => Sys2Proof.Machine.execAddImm cond sf rn rd rot imm s
  | .addShiftImm cond sf rn rd shamt kind rm => Sys2Proof.Machine.execAddShiftImm cond sf rn rd shamt kind rm s
  | .addShiftReg cond sf rn rd rs kind rm => Sys2Proof.Machine.execAddShiftReg cond sf rn rd rs kind rm s
  | .adcImm cond sf rn rd rot imm => Sys2Proof.Machine.execAdcImm cond sf rn rd rot imm s
  | .adcShiftImm cond sf rn rd shamt kind rm => Sys2Proof.Machine.execAdcShiftImm cond sf rn rd shamt kind rm s
  | .adcShiftReg cond sf rn rd rs kind rm => Sys2Proof.Machine.execAdcShiftReg cond sf rn rd rs kind rm s
  | .sbcImm cond sf rn rd rot imm => Sys2Proof.Machine.execSbcImm cond sf rn rd rot imm s
  | .sbcShiftImm cond sf rn rd shamt kind rm => Sys2Proof.Machine.execSbcShiftImm cond sf rn rd shamt kind rm s
  | .sbcShiftReg cond sf rn rd rs kind rm => Sys2Proof.Machine.execSbcShiftReg cond sf rn rd rs kind rm s
  | .rscImm cond sf rn rd rot imm => Sys2Proof.Machine.execRscImm cond sf rn rd rot imm s
  | .rscShiftImm cond sf rn rd shamt kind rm => Sys2Proof.Machine.execRscShiftImm cond sf rn rd shamt kind rm s
  | .rscShiftReg cond sf rn rd rs kind rm => Sys2Proof.Machine.execRscShiftReg cond sf rn rd rs kind rm s
  | .tstImm cond sf rn rd rot imm => Sys2Proof.Machine.execTstImm cond sf rn rd rot imm s
  | .tstShiftImm cond sf rn rd shamt kind rm => Sys2Proof.Machine.execTstShiftImm cond sf rn rd shamt kind rm s
  | .tstShiftReg cond sf rn rd rs kind rm => Sys2Proof.Machine.execTstShiftReg cond sf rn rd rs kind rm s
  | .teqImm cond sf rn rd rot imm => Sys2Proof.Machine.execTeqImm cond sf rn rd rot imm s
  | .teqShiftImm cond sf rn rd shamt kind rm => Sys2Proof.Machine.execTeqShiftImm cond sf rn rd shamt kind rm s
  | .teqShiftReg cond sf rn rd rs kind rm => Sys2Proof.Machine.execTeqShiftReg cond sf rn rd rs kind rm s
  | .cmpImm cond sf rn rd rot imm => Sys2Proof.Machine.execCmpImm cond sf rn rd rot imm s
  | .cmpShiftImm cond sf rn rd shamt kind rm => Sys2Proof.Machine.execCmpShiftImm cond sf rn rd shamt kind rm s
  | .cmpShiftReg cond sf rn rd rs kind rm => Sys2Proof.Machine.execCmpShiftReg cond sf rn rd rs kind rm s
  | .cmnImm cond sf rn rd rot imm => Sys2Proof.Machine.execCmnImm cond sf rn rd rot imm s
  | .cmnShiftImm cond sf rn rd shamt kind rm => Sys2Proof.Machine.execCmnShiftImm cond sf rn rd shamt kind rm s
  | .cmnShiftReg cond sf rn rd rs kind rm => Sys2Proof.Machine.execCmnShiftReg cond sf rn rd rs kind rm s
  | .orrImm cond sf rn rd rot imm => Sys2Proof.Machine.execOrrImm cond sf rn rd rot imm s
  | .orrShiftImm cond sf rn rd shamt kind rm => Sys2Proof.Machine.execOrrShiftImm cond sf rn rd shamt kind rm s
  | .orrShiftReg cond sf rn rd rs kind rm => Sys2Proof.Machine.execOrrShiftReg cond sf rn rd rs kind rm s
  | .movImm cond sf rn rd rot imm => Sys2Proof.Machine.execMovImm cond sf rn rd rot imm s
  | .movShiftImm cond sf rn rd shamt kind rm => Sys2Proof.Machine.execMovShiftImm cond sf rn rd shamt kind rm s
  | .movShiftReg cond sf rn rd rs kind rm => Sys2Proof.Machine.execMovShiftReg cond sf rn rd rs kind rm s
  | .bicImm cond sf rn rd rot imm => Sys2Proof.Machine.execBicImm cond sf rn rd rot imm s
  | .bicShiftImm cond sf rn rd shamt kind rm => Sys2Proof.Machine.execBicShiftImm cond sf rn rd shamt kind rm s
  | .bicShiftReg cond sf rn rd rs kind rm => Sys2Proof.Machine.execBicShiftReg cond sf rn rd rs kind rm s
  | .mvnImm cond sf rn rd rot imm => Sys2Proof.Machine.execMvnImm cond sf rn rd rot imm s
  | .mvnShiftImm cond sf rn rd shamt kind rm => Sys2Proof.Machine.execMvnShiftImm cond sf rn rd shamt kind rm s
  | .mvnShiftReg cond sf rn rd rs kind rm => Sys2Proof.Machine.execMvnShiftReg cond sf rn rd rs kind rm s
  | .undefined cond => Sys2Proof.Machine.execUndefined cond s
  | .cLslImm shamt rm rd => Sys2Proof.Machine.execCLslImm shamt rm rd s
  | .cLsrImm shamt rm rd => Sys2Proof.Machine.execCLsrImm shamt rm rd s
  | .cAsrImm shamt rm rd => Sys2Proof.Machine.execCAsrImm shamt rm rd s
  | .cAddReg rm rn rd => Sys2Proof.Machine.execCAddReg rm rn rd s
  | .cAddImm3 imm rn rd => Sys2Proof.Machine.execCAddImm3 imm rn rd s
  | .cSubReg rm rn rd => Sys2Proof.Machine.execCSubReg rm rn rd s
  | .cSubImm3 imm rn rd => Sys2Proof.Machine.execCSubImm3 imm rn rd s
  | .cMovImm8 rd imm => Sys2Proof.Machine.execCMovImm8 rd imm s
  | .cCmpImm8 rd imm => Sys2Proof.Machine.execCCmpImm8 rd imm s
  | .cAddImm8 rd imm => Sys2Proof.Machine.execCAddImm8 rd imm s
  | .cSubImm8 rd imm => Sys2Proof.Machine.execCSubImm8 rd imm s
  | .cAnd rs rd => Sys2Proof.Machine.execCAnd rs rd s
  | .cEor rs rd => Sys2Proof.Machine.execCEor rs rd s
  | .cLslReg rs rd => Sys2Proof.Machine.execCLslReg rs rd s
  | .cLsrReg rs rd => Sys2Proof.Machine.execCLsrReg rs rd s
  | .cAsrReg rs rd => Sys2Proof.Machine.execCAsrReg rs rd s
  | .cAdc rs rd => Sys2Proof.Machine.execCAdc rs rd s
  | .cSbc rs rd => Sys2Proof.Machine.execCSbc rs rd s
  | .cRorReg rs rd => Sys2Proof.Machine.execCRorReg rs rd s
  | .cTst rs rd => Sys2Proof.Machine.execCTst rs rd s
  | .cNeg rs rd => Sys2Proof.Machine.execCNeg rs rd s
  | .cCmp rs rd => Sys2Proof.Machine.execCCmp rs rd s
  | .cCmn rs rd => Sys2Proof.Machine.execCCmn rs rd s
  | .cOrr rs rd => Sys2Proof.Machine.execCOrr rs rd s
  | .cMul rs rd => Sys2Proof.Machine.execCMul rs rd s
  | .cBic rs rd => Sys2Proof.Machine.execCBic rs rd s
  | .cMvn rs rd => Sys2Proof.Machine.execCMvn rs rd s
  | .cAddHi rs rd => Sys2Proof.Machine.execCAddHi rs rd s
  | .cCmpHi rs rd => Sys2Proof.Machine.execCCmpHi rs rd s
  | .cMovHi rs rd => Sys2Proof.Machine.execCMovHi rs rd s
  | .cBx rs => Sys2Proof.Machine.execCBx rs s
  | .cLdrPc rd imm => Sys2Proof.Machine.execCLdrPc rd imm s
  | .cStrReg rm rn rd => Sys2Proof.Machine.execCStrReg rm rn rd s
  | .cStrbReg rm rn rd => Sys2Proof.Machine.execCStrbReg rm rn rd s
  | .cLdrReg rm rn rd => Sys2Proof.Machine.execCLdrReg rm rn rd s
  | .cLdrbReg rm rn rd => Sys2Proof.Machine.execCLdrbReg rm rn rd s
  | .cStrhReg rm rn rd => Sys2Proof.Machine.execCStrhReg rm rn rd s
  | .cLdrsbReg rm rn rd => Sys2Proof.Machine.execCLdrsbReg rm rn rd s
  | .cLdrhReg rm rn rd => Sys2Proof.Machine.execCLdrhReg rm rn rd s
  | .cLdrshReg rm rn rd => Sys2Proof.Machine.execCLdrshReg rm rn rd s
  | .cStrImm imm rn rd => Sys2Proof.Machine.execCStrImm imm rn rd s
  | .cLdrImm imm rn rd => Sys2Proof.Machine.execCLdrImm imm rn rd s
  | .cStrbImm imm rn rd => Sys2Proof.Machine.execCStrbImm imm rn rd s
  | .cLdrbImm imm rn rd => Sys2Proof.Machine.execCLdrbImm imm rn rd s
  | .cStrhImm imm rn rd => Sys2Proof.Machine.execCStrhImm imm rn rd s
  | .cLdrhImm imm rn rd => Sys2Proof.Machine.execCLdrhImm imm rn rd s
  | .cStrSp rd imm => Sys2Proof.Machine.execCStrSp rd imm s
  | .cLdrSp rd imm => Sys2Proof.Machine.execCLdrSp rd imm s
  | .cAddPc rd imm => Sys2Proof.Machine.execCAddPc rd imm s
  | .cAddSp rd imm => Sys2Proof.Machine.execCAddSp rd imm s
  | .cAddSpImm imm => Sys2Proof.Machine.execCAddSpImm imm s
  | .cSubSpImm imm => Sys2Proof.Machine.execCSubSpImm imm s
  | .cPush r rlist => Sys2Proof.Machine.execCPush r rlist s
  | .cPop r rlist => Sys2Proof.Machine.execCPop r rlist s
  | .cStmia rn rlist => Sys2Proof.Machine.execCStmia rn rlist s
  | .cLdmia rn rlist => Sys2Proof.Machine.execCLdmia rn rlist s
  | .cBcond0 cond offset => Sys2Proof.Machine.execCBcond0 cond offset s
  | .cBcond8 cond offset => Sys2Proof.Machine.execCBcond8 cond offset s
  | .cBcondC cond offset => Sys2Proof.Machine.execCBcondC cond offset s
  | .cSwi comment => Sys2Proof.Machine.execCSwi comment s
  | .cBkpt comment => Sys2Proof.Machine.execCBkpt comment s
  | .cB offset => Sys2Proof.Machine.execCB offset s
  | .cBlh1 offset => Sys2Proof.Machine.execCBlh1 offset s
  | .cBlh2 imm => Sys2Proof.Machine.execCBlh2 imm s
  | .cUndefined => Sys2Proof.Machine.execCUndefined s

end Sys2Proof.Machine
end

