-- ==== Sys2Proof/Machine/Step.lean ====
section
/-! DEFINITION. One step: the instruction step of rule R12. The condition test and the advance of the program counter
are inside each meaning (log 11); fetch and execution each draw their own free values (log 8). -/

namespace Sys2Proof.Machine

/-- R12: fetch at R15 with the width T selects, decode, execute. -/
def step (s : State) : Host.Outcome State Fault Refusal :=
  let f := s.tick
  exec f.fetch f.tick

/-- The state with an instruction's bits stored where `step` fetches next, and the decoder of its width selected (log
19). Rows have 32 or 16 bits; any other count is taken as a compressed word's. -/
def State.withFetchWord (s : State) (nbits w : Nat) : State :=
  if nbits = 32 then s.placeCode (.wide (BitVec.ofNat 32 w)) else s.placeCode (.half (BitVec.ofNat 16 w))

end Sys2Proof.Machine
end

