-- ==== Sys2Proof/Safety.lean ====
section
/-! DEFINITION. The terms the claims are stated in: the invariant of the machine, the frame of a step, and the results and
flags of the data-processing operations as exact integer arithmetic, written without the model's adder. -/

namespace Sys2Proof.Machine

/-! ## Invariant and frame -/

/-- R30, R67: the program counter is aligned for the encoding in effect. -/
def State.pcAligned (s : State) : Bool := if s.cpsr.t then s.pc.toNat % 2 == 0 else s.pc.toNat % 4 == 0

/-- What every step keeps: memory in its canonical form, the program counter aligned (R30, R67). -/
def State.Inv (s : State) : Prop := s.mem.wf = true ∧ s.pcAligned = true

/-- `n` byte addresses from `a` upward, modulo 2^32 (R65). -/
def span : Word → Nat → List Word
  | _, 0 => []
  | a, n + 1 => a :: span (a + 1) n

/-- Every address of the list is plain read-write memory (R64: "writable mapped memory"). -/
def State.plain (s : State) (l : List Word) : Prop := ∀ a ∈ l, kindAt s.bus a = .ram

/-- What an instruction leaves unchanged: every general register slot but `regs` (and R15, which each claim states),
every saved status word but those of `saved`, every byte but those of `stored`, and the bus map. The current status
word is stated by each claim. -/
def Frame (s t : State) (regs : List Slot) (saved : List Mode) (stored : List Word) : Prop :=
  (∀ σ, σ ∉ regs → σ ≠ pcSlot → t.readSlot σ = s.readSlot σ) ∧
  (∀ m, m ∉ saved → t.spsrOf m = s.spsrOf m) ∧
  (∀ a, a ∉ stored → t.load8 a = s.load8 a) ∧
  t.bus = s.bus

/-- The slot of a register in the current mode (R24). -/
def State.here (s : State) (i : Reg) : Slot := slot s.cpsr.mode i

/-- R24 in words: which mode's private bank holds register `i` of mode `m`; `usr` stands for the shared bank. -/
def bankOf (m : Mode) (i : Reg) : Mode :=
  if m = .fiq ∧ 8 ≤ i.toNat ∧ i.toNat ≤ 14 then .fiq
  else if (m = .irq ∨ m = .svc ∨ m = .abt ∨ m = .und) ∧ (i.toNat = 13 ∨ i.toNat = 14) then m
  else .usr

/-- The state seen from another mode: only the mode tag changes (R23). -/
def State.inMode (s : State) (m : Mode) : State := s.withCpsr { s.cpsr with mode := m }

/-! ## Block transfers -/

/-- R265: register `i` is transferred; an empty list transfers r15 alone (R270). -/
def transferred (rlist : BitVec 16) (i : Reg) : Prop := if rlist = 0 then i = 15 else rlist.getLsbD i.toNat = true

/-- R265, R270: the transferred registers, ascending. -/
def transferredRegs (rlist : BitVec 16) : List Reg :=
  if rlist = 0 then [15] else ((List.range 16).filter fun j => rlist.getLsbD j).map (BitVec.ofNat 4)

/-- R265, R270: the words the base moves by: as many as the list has bits set, 16 for an empty list. -/
def blockWords (rlist : BitVec 16) : Nat :=
  if rlist = 0 then 16 else ((List.range 16).filter fun j => rlist.getLsbD j).length

/-- R265: the four forms of a block transfer, IA, IB, DA and DB, written without the model's functions: P, U, the lowest
address, the base after the transfer. -/
def blockForms (base : Word) (rlist : BitVec 16) : List (Bool × Bool × Word × Word) :=
  let n := BitVec.ofNat 32 (4 * blockWords rlist)
  [(false, true, base, base + n), (true, true, base + 4, base + n), (false, false, base - n + 4, base - n),
    (true, false, base - n, base - n)]

/-- R265: the address of register `i` in a transfer from `low` up: as many words above it as there are listed registers
below `i`. -/
def blockAddr (low : Word) (rlist : BitVec 16) (i : Reg) : Word :=
  low + BitVec.ofNat 32 (4 * ((List.range i.toNat).filter fun j => rlist.getLsbD j).length)

/-- The bytes a block store writes from `low` up. -/
def blockSpan (low : Word) (rlist : BitVec 16) : List Word := span low (4 * (transferredRegs rlist).length)

end Sys2Proof.Machine

namespace Sys2Proof

/-! ## Conditions -/

/-- The condition field of an instruction that has one (R91, R127). -/
def Instr.cond? : Instr → Option Cond
  | .bx cond .. | .swi cond .. | .b cond .. | .bl cond .. | .ldrImm cond .. | .ldrReg cond .. | .strImm cond ..
  | .strReg cond .. | .ldrbImm cond .. | .ldrbReg cond .. | .strbImm cond .. | .strbReg cond .. | .ldm cond ..
  | .stm cond .. | .swp cond .. | .swpb cond .. | .ldrhImm cond .. | .ldrhReg cond .. | .strhImm cond ..
  | .strhReg cond .. | .ldrsbImm cond .. | .ldrsbReg cond .. | .ldrshImm cond .. | .ldrshReg cond .. | .mul cond ..
  | .mla cond .. | .umull cond .. | .umlal cond .. | .smull cond .. | .smlal cond .. | .mulhalf cond ..
  | .mrs cond .. | .msrReg cond .. | .msrImm cond .. | .andImm cond .. | .andShiftImm cond .. | .andShiftReg cond ..
  | .eorImm cond .. | .eorShiftImm cond .. | .eorShiftReg cond .. | .subImm cond .. | .subShiftImm cond ..
  | .subShiftReg cond .. | .rsbImm cond .. | .rsbShiftImm cond .. | .rsbShiftReg cond .. | .addImm cond ..
  | .addShiftImm cond .. | .addShiftReg cond .. | .adcImm cond .. | .adcShiftImm cond .. | .adcShiftReg cond ..
  | .sbcImm cond .. | .sbcShiftImm cond .. | .sbcShiftReg cond .. | .rscImm cond .. | .rscShiftImm cond ..
  | .rscShiftReg cond .. | .tstImm cond .. | .tstShiftImm cond .. | .tstShiftReg cond .. | .teqImm cond ..
  | .teqShiftImm cond .. | .teqShiftReg cond .. | .cmpImm cond .. | .cmpShiftImm cond .. | .cmpShiftReg cond ..
  | .cmnImm cond .. | .cmnShiftImm cond .. | .cmnShiftReg cond .. | .orrImm cond .. | .orrShiftImm cond ..
  | .orrShiftReg cond .. | .movImm cond .. | .movShiftImm cond .. | .movShiftReg cond .. | .bicImm cond ..
  | .bicShiftImm cond .. | .bicShiftReg cond .. | .mvnImm cond .. | .mvnShiftImm cond .. | .mvnShiftReg cond ..
  | .undefined cond .. | .cBcond0 cond .. | .cBcond8 cond .. | .cBcondC cond .. => some cond
  | .cLslImm .. | .cLsrImm .. | .cAsrImm .. | .cAddReg .. | .cAddImm3 .. | .cSubReg .. | .cSubImm3 .. | .cMovImm8 ..
  | .cCmpImm8 .. | .cAddImm8 .. | .cSubImm8 .. | .cAnd .. | .cEor .. | .cLslReg .. | .cLsrReg .. | .cAsrReg ..
  | .cAdc .. | .cSbc .. | .cRorReg .. | .cTst .. | .cNeg .. | .cCmp .. | .cCmn .. | .cOrr .. | .cMul .. | .cBic ..
  | .cMvn .. | .cAddHi .. | .cCmpHi .. | .cMovHi .. | .cBx .. | .cLdrPc .. | .cStrReg .. | .cStrbReg ..
  | .cLdrReg .. | .cLdrbReg .. | .cStrhReg .. | .cLdrsbReg .. | .cLdrhReg .. | .cLdrshReg .. | .cStrImm ..
  | .cLdrImm .. | .cStrbImm .. | .cLdrbImm .. | .cStrhImm .. | .cLdrhImm .. | .cStrSp .. | .cLdrSp .. | .cAddPc ..
  | .cAddSp .. | .cAddSpImm .. | .cSubSpImm .. | .cPush .. | .cPop .. | .cStmia .. | .cLdmia .. | .cSwi ..
  | .cBkpt .. | .cB .. | .cBlh1 .. | .cBlh2 .. | .cUndefined => none

/-- The width of an instruction in bytes (R7, R90). -/
def Instr.width (i : Instr) : Word := if i.isWide then 4 else 2

/-! ## Data-processing as exact arithmetic (R160 to R198) -/

/-- R180: the operations that write their result; TST, TEQ, CMP and CMN discard it. -/
def DpOp.writes : DpOp → Bool
  | .tst | .teq | .cmp | .cmn => false
  | .and | .eor | .sub | .rsb | .add | .adc | .sbc | .rsc | .orr | .mov | .bic | .mvn => true

/-- 1 for a set carry, 0 for a clear one. -/
def carryIn (c : Bool) : Word := if c then 1 else 0

/-- R182 to R198: the 32-bit result, `a` the first operand, `b` the second, `c` the carry flag. -/
def DpOp.value (op : DpOp) (a b : Word) (c : Bool) : Word :=
  match op with
  | .and | .tst => a &&& b
  | .eor | .teq => a ^^^ b
  | .sub | .cmp => a - b
  | .rsb => b - a
  | .add | .cmn => a + b
  | .adc => a + b + carryIn c
  | .sbc => a - b - (1 - carryIn c)
  | .rsc => b - a - (1 - carryIn c)
  | .orr => a ||| b
  | .mov => b
  | .bic => a &&& ~~~b
  | .mvn => ~~~b

/-- The operands read as signed numbers, the operation done exactly; `none` for a logical operation. -/
def DpOp.exact (op : DpOp) (a b : Word) (c : Bool) : Option Int :=
  match op with
  | .sub | .cmp => some (a.toInt - b.toInt)
  | .rsb => some (b.toInt - a.toInt)
  | .add | .cmn => some (a.toInt + b.toInt)
  | .adc => some (a.toInt + b.toInt + c.toNat)
  | .sbc => some (a.toInt - b.toInt - (1 - c.toNat))
  | .rsc => some (b.toInt - a.toInt - (1 - c.toNat))
  | .and | .eor | .tst | .teq | .orr | .mov | .bic | .mvn => none

/-- R160, R161: the carry as an unsigned comparison: the sum reaches 2^32, or the subtraction borrows nothing. -/
def DpOp.carry (op : DpOp) (a b : Word) (c : Bool) : Bool :=
  match op with
  | .sub | .cmp => decide (b.toNat ≤ a.toNat)
  | .rsb => decide (a.toNat ≤ b.toNat)
  | .add | .cmn => decide (2 ^ 32 ≤ a.toNat + b.toNat)
  | .adc => decide (2 ^ 32 ≤ a.toNat + b.toNat + c.toNat)
  | .sbc => decide (b.toNat + 1 ≤ a.toNat + c.toNat)
  | .rsc => decide (a.toNat + 1 ≤ b.toNat + c.toNat)
  | .and | .eor | .tst | .teq | .orr | .mov | .bic | .mvn => false

/-- R163, R180: the status word a flag-setting operation leaves: N and Z of the result; for a logical operation C the
shifter carry `sc` and V as before, for an arithmetic one C as above and V set exactly when the exact signed result
does not fit. -/
def DpOp.flags (op : DpOp) (a b : Word) (c sc : Bool) (p : Machine.Psr) : Machine.Psr :=
  let r := op.value a b c
  match op.exact a b c with
  | none => { p with n := decide (r.toInt < 0), z := decide (r = 0), c := sc }
  | some e => { p with n := decide (r.toInt < 0), z := decide (r = 0), c := op.carry a b c, v := decide (e ≠ r.toInt) }

end Sys2Proof
end

