-- ==== Sys2Proof/Certificates/Slice0/Obligations.lean ====
section
/-! DEFINITION. The statements for the provers, in the order of OBLIGATIONS.json. Every statement about an instruction
says that it completes, what it leaves, and its frame (`Frame`, Safety.lean); `s` is the state the instruction begins in,
so `s.pc` is its address A. -/

section Statements
open Sys2Proof Sys2Proof.Machine

/-! ## Encoding -/

/-- R90 to R107: the bytes of a well-formed wide instruction, wherever they stand, decode to it; the rest is left. -/
def Obligations.WideDecodeAfterEncode : Prop :=
  ∀ (i : Instr) (rest : List Byte), i.wf = true → i.isWide = true →
    decode false ((encode i).bytes ++ rest) = .ok (i, rest)

/-- R110 to R132: the same for the compressed instructions. -/
def Obligations.CompressedDecodeAfterEncode : Prop :=
  ∀ (i : Instr) (rest : List Byte), i.wf = true → i.isWide = false →
    decode true ((encode i).bytes ++ rest) = .ok (i, rest)

/-- R46, R94, R110: each decoder answers for every word, only with instructions of its own set, well-formed and with a
tag of that set: BKPT, BLH1 and BLH2 are the compressed decoder's alone, thirteen tags the wide decoder's alone. -/
def Obligations.DecodedInstructionsAreWellFormed : Prop :=
  (∀ w : Word, (decodeWide w).wf = true ∧ (decodeWide w).isWide = true ∧
    (decodeWide w).tag ∉ [Tag.bkpt, .blh1, .blh2]) ∧
  (∀ h : Half, (decodeCompressed h).wf = true ∧ (decodeCompressed h).isWide = false ∧
    (decodeCompressed h).tag ∉
      [Tag.rsc, .teq, .mla, .umull, .umlal, .smull, .smlal, .mulhalf, .mrs, .msr, .swp, .swpb, .bl])

/-- R94: the wide words that reach step 9. -/
def Obligations.WideUndefinedExactly : Prop :=
  ∀ w : Word, (∃ cond, decodeWide w = .undefined cond) ↔
    (w.extractLsb' 25 3 = 0b110#3 ∨ w.extractLsb' 24 4 = 0b1110#4)

/-- R131: the compressed words outside the 19 formats. -/
def Obligations.CompressedUndefinedExactly : Prop :=
  ∀ h : Half, decodeCompressed h = .cUndefined ↔
    ((h.extractLsb' 12 4 = 0b1011#4 ∧
        h.extractLsb' 8 4 ∉ [0b0000#4, 0b0100#4, 0b0101#4, 0b1100#4, 0b1101#4, 0b1110#4]) ∨
      h.extractLsb' 8 8 = 0b11011110#8 ∨ h.extractLsb' 11 5 = 0b11101#5)

/-- Words of the spec's examples, a few of each decoder (the first is the document's own, 95_test_vectors.md S7), and
the tags (R46) of the compressed ones, which are those of wide instructions. -/
def Obligations.SampleWordsDecode : Prop :=
  decodeWide 0x008CA015 = .addShiftReg .eq false 12 10 0 .lsl 5 ∧
  decodeWide 0xE12FFF10 = .bx .al 0 ∧
  decodeWide 0xE7B10102 = .ldrReg .al true true true 1 0 2 .lsl 2 ∧
  decodeWide 0xE8A50021 = .stm .al false true false true 5 0x0021 ∧
  decodeWide 0xE0A10392 = .umlal .al false 1 0 3 2 ∧
  decodeWide 0xE328F20F = .msrImm .al .cpsr 8 2 0x0F ∧
  decodeCompressed 0x17DA = .cAsrImm 31 3 2 ∧
  decodeCompressed 0x4770 = .cBx 14 ∧
  decodeCompressed 0xBD01 = .cPop true 0x01 ∧
  decodeCompressed 0xD1FE = .cBcond0 .ne 0xFE ∧
  (decodeWide 0x008CA015).tag = .add ∧ (decodeCompressed 0x17DA).tag = .mov ∧ (decodeCompressed 0x4770).tag = .bx ∧
  (decodeCompressed 0xBD01).tag = .ldm ∧ (decodeCompressed 0xD1FE).tag = .b

/-! ## Primitives -/

/-- R151: the barrel shifter, row by row; `r` is `by_register`. -/
def Obligations.ShifterTable : Prop :=
  ∀ (v : Word) (c : Bool),
    let fill : Word := if v.msb then 0xFFFFFFFF else 0
    (∀ r, shift .lsl v 0 c r = (v, c)) ∧
    shift .lsr v 0 c false = (0, v.msb) ∧
    shift .asr v 0 c false = (fill, v.msb) ∧
    shift .ror v 0 c false = ((if c then 0x80000000 else 0) ||| v >>> 1, v.getLsbD 0) ∧
    (∀ kind, shift kind v 0 c true = (v, c)) ∧
    (∀ (n : Nat) (r : Bool), 1 ≤ n → n ≤ 31 →
      shift .lsl v n c r = (BitVec.ofNat 32 (v.toNat * 2 ^ n), v.getLsbD (32 - n)) ∧
      shift .lsr v n c r = (BitVec.ofNat 32 (v.toNat / 2 ^ n), v.getLsbD (n - 1)) ∧
      shift .asr v n c r = (BitVec.ofInt 32 (v.toInt / 2 ^ n), v.getLsbD (n - 1)) ∧
      shift .ror v n c r = (v.rotateRight n, v.getLsbD (n - 1))) ∧
    shift .lsl v 32 c true = (0, v.getLsbD 0) ∧
    shift .lsr v 32 c true = (0, v.msb) ∧
    (∀ n : Nat, 33 ≤ n → n ≤ 255 → shift .lsl v n c true = (0, false) ∧ shift .lsr v n c true = (0, false)) ∧
    (∀ n : Nat, 32 ≤ n → n ≤ 255 →
      shift .asr v n c true = (fill, v.msb) ∧
      (n % 32 = 0 → shift .ror v n c true = (v, v.msb)) ∧
      (n % 32 ≠ 0 → shift .ror v n c true = (v.rotateRight (n % 32), v.getLsbD (n % 32 - 1))))

/-- R160: the adder, on unbounded integers; its overflow is the exact signed one. -/
def Obligations.AdderExact : Prop :=
  ∀ (x y : Word) (cin : Bool),
    let r := (addWithCarry x y cin).1
    r.toNat = (x.toNat + y.toNat + cin.toNat) % 2 ^ 32 ∧
    ((addWithCarry x y cin).2.1 = true ↔ 2 ^ 32 ≤ x.toNat + y.toNat + cin.toNat) ∧
    ((addWithCarry x y cin).2.2 = true ↔ x.msb = y.msb ∧ r.msb ≠ x.msb) ∧
    ((addWithCarry x y cin).2.2 = true ↔ x.toInt + y.toInt + cin.toNat ≠ r.toInt)

/-- R161: subtraction as addition of the complement. -/
def Obligations.SubtractionByComplement : Prop :=
  ∀ x y : Word,
    (addWithCarry x (~~~y) true).1 = x - y ∧
    ((addWithCarry x (~~~y) true).2.1 = true ↔ y.toNat ≤ x.toNat) ∧
    ((addWithCarry x (~~~y) true).2.2 = true ↔ x.msb ≠ y.msb ∧ (x - y).msb ≠ x.msb) ∧
    ∀ c : Bool, (addWithCarry x (~~~y) c).1 = x - y - (1 - carryIn c)

/-- R175: the rotated immediate and its carry. -/
def Obligations.RotatedImmediate : Prop :=
  ∀ (rot : BitVec 4) (imm : BitVec 8) (s : State),
    let v : Word := imm.setWidth 32
    let n := 2 * rot.toNat
    (rot = 0 → operand2 (.imm rot imm) s = (v, s.cpsr.c)) ∧
    (rot ≠ 0 → operand2 (.imm rot imm) s = (v >>> n ||| v <<< (32 - n), (v >>> n ||| v <<< (32 - n)).msb))

/-- R170: the condition table, and that an instruction whose condition fails, wide or compressed, UNDEFINED and SWI
included, only advances the program counter by its width. -/
def Obligations.ConditionGatesExecution : Prop :=
  (∀ p : Psr,
    (conditionPassed .eq p = true ↔ p.z = true) ∧ (conditionPassed .ne p = true ↔ p.z = false) ∧
    (conditionPassed .cs p = true ↔ p.c = true) ∧ (conditionPassed .cc p = true ↔ p.c = false) ∧
    (conditionPassed .mi p = true ↔ p.n = true) ∧ (conditionPassed .pl p = true ↔ p.n = false) ∧
    (conditionPassed .vs p = true ↔ p.v = true) ∧ (conditionPassed .vc p = true ↔ p.v = false) ∧
    (conditionPassed .hi p = true ↔ p.c = true ∧ p.z = false) ∧
    (conditionPassed .ls p = true ↔ p.c = false ∨ p.z = true) ∧
    (conditionPassed .ge p = true ↔ p.n = p.v) ∧ (conditionPassed .lt p = true ↔ p.n ≠ p.v) ∧
    (conditionPassed .gt p = true ↔ p.z = false ∧ p.n = p.v) ∧
    (conditionPassed .le p = true ↔ p.z = true ∨ p.n ≠ p.v) ∧
    conditionPassed .al p = true ∧ conditionPassed .nv p = false) ∧
  ∀ (i : Instr) (cond : Cond) (s : State), i.cond? = some cond → conditionPassed cond s.cpsr = false →
    ∃ t, exec i s = .next t ∧ t.pc = s.pc + i.width ∧ t.cpsr = s.cpsr ∧ Frame s t [] [] []

/-! ## Status words and registers -/

/-- R33, R34, R35: where the flags and the mode stand in the 32-bit word, and the seven mode encodings. -/
def Obligations.StatusWordLayout : Prop :=
  (∀ w : Word, Psr.unpack w =
    { n := w.getLsbD 31, z := w.getLsbD 30, c := w.getLsbD 29, v := w.getLsbD 28, irqOff := w.getLsbD 7,
      fiqOff := w.getLsbD 6, t := w.getLsbD 5, mode := Mode.ofBits (w.extractLsb' 0 5) }) ∧
  (∀ p : Psr, p.pack.toNat = 2 ^ 31 * p.n.toNat + 2 ^ 30 * p.z.toNat + 2 ^ 29 * p.c.toNat + 2 ^ 28 * p.v.toNat
    + 2 ^ 7 * p.irqOff.toNat + 2 ^ 6 * p.fiqOff.toNat + 2 ^ 5 * p.t.toNat + p.mode.enc.toNat) ∧
  (Mode.usr.enc = 0x10 ∧ Mode.fiq.enc = 0x11 ∧ Mode.irq.enc = 0x12 ∧ Mode.svc.enc = 0x13 ∧ Mode.abt.enc = 0x17 ∧
    Mode.und.enc = 0x1B ∧ Mode.sys.enc = 0x1F) ∧
  (∀ m : Mode, Mode.ofBits m.enc = m) ∧
  (∀ v : BitVec 5, (∀ m : Mode, m.enc ≠ v) → Mode.ofBits v = .usr)

/-- R36: the round-trip laws of the status word. -/
def Obligations.StatusWordRoundTrip : Prop :=
  (∀ w : Word, (Psr.unpack w).pack = (w &&& 0xF00000E0) ||| (Mode.ofBits (w.extractLsb' 0 5)).enc.setWidth 32) ∧
  (∀ (w : Word) (m : Mode), w.extractLsb' 0 5 = m.enc → (Psr.unpack w).pack = w &&& 0xF00000FF) ∧
  (∀ w : Word, (∀ m : Mode, w.extractLsb' 0 5 ≠ m.enc) → (Psr.unpack w).pack.extractLsb' 0 5 = 0b10000#5) ∧
  ∀ p : Psr, Psr.unpack p.pack = p

/-- R23, R24, R27: a register written in one mode and read in another is the value written exactly when both modes hold
that register in the same bank; otherwise the other mode reads what it read before. -/
def Obligations.RegisterBanking : Prop :=
  ∀ (s : State) (m k : Mode) (i j : Reg) (v : Word), i ≠ 15 → j ≠ 15 →
    (((s.inMode m).setX i v).inMode k).x j =
      if i = j ∧ bankOf m i = bankOf k i then v else (s.inMode k).x j

/-! ## Memory -/

/-- R62, R63: big-endian composition, addresses modulo 2^32; a narrow read is zero-extended. -/
def Obligations.BigEndianReads : Prop :=
  ∀ (s : State) (a : Word),
    (s.load16 a).toNat = 2 ^ 8 * (s.load8 a).toNat + (s.load8 (a + 1)).toNat ∧
    (s.load32 a).toNat = 2 ^ 24 * (s.load8 a).toNat + 2 ^ 16 * (s.load8 (a + 1)).toNat
      + 2 ^ 8 * (s.load8 (a + 2)).toNat + (s.load8 (a + 3)).toNat ∧
    (s.memRead a .byte).toNat = (s.load8 a).toNat ∧ (s.memRead a .half).toNat = (s.load16 a).toNat ∧
    s.memRead a .word = s.load32 a

/-- R64: what a store writes byte by byte, and that the same access reads it back. -/
def Obligations.WriteThenRead : Prop :=
  ∀ (s : State) (a v : Word), s.mem.wf = true →
    (s.plain [a] →
      (s.memWrite a .byte v).load8 a = v.extractLsb' 0 8 ∧
      (s.memWrite a .byte v).memRead a .byte = v &&& 0xFF) ∧
    (s.plain (span a 2) →
      (s.memWrite a .half v).load8 a = v.extractLsb' 8 8 ∧ (s.memWrite a .half v).load8 (a + 1) = v.extractLsb' 0 8 ∧
      (s.memWrite a .half v).memRead a .half = v &&& 0xFFFF) ∧
    (s.plain (span a 4) →
      (s.memWrite a .word v).load8 a = v.extractLsb' 24 8 ∧ (s.memWrite a .word v).load8 (a + 1) = v.extractLsb' 16 8 ∧
      (s.memWrite a .word v).load8 (a + 2) = v.extractLsb' 8 8 ∧
      (s.memWrite a .word v).load8 (a + 3) = v.extractLsb' 0 8 ∧
      (s.memWrite a .word v).memRead a .word = v)

/-- R78: narrow reads of a wider stored value. -/
def Obligations.MixedWidthReads : Prop :=
  ∀ (s : State) (a : Word), s.mem.wf = true → s.plain (span a 4) →
    let t := s.memWrite a .word 0x11223344
    t.memRead a .byte = 0x11 ∧ t.memRead (a + 3) .byte = 0x44 ∧ t.memRead a .half = 0x1122 ∧
      t.memRead (a + 2) .half = 0x3344 ∧ t.memRead (a + 1) .half = 0x2233

/-- R64, R67: a store of any width at any address changes its own bytes only, and keeps memory canonical. -/
def Obligations.StoresTouchOnlyTheirBytes : Prop :=
  ∀ (s : State) (a : Word) (sz : Size) (v : Word),
    Frame s (s.memWrite a sz v) [] [] (span a sz.bytes) ∧ (s.memWrite a sz v).pc = s.pc ∧
      (s.memWrite a sz v).cpsr = s.cpsr ∧ (s.mem.wf = true → (s.memWrite a sz v).mem.wf = true)

/-- R71, R421: unmapped ranges read 0; a store that meets no plain memory (a read-only, unmapped or device range)
changes nothing, and raises nothing. That a device store changes nothing of the machine is the model's choice (log 7).
-/
def Obligations.AccessesOutsidePlainMemory : Prop :=
  ∀ (s : State) (a : Word),
    (kindAt s.bus a = .unmapped → s.load8 a = 0) ∧
    ∀ (sz : Size) (v : Word), (∀ b ∈ span a sz.bytes, kindAt s.bus b ≠ .ram) → s.memWrite a sz v = s

/-! ## Wide data-processing -/

/-- R180, R182 to R198: the sixteen operations in all three operand forms (48 constructors, through `DpOp.instr`), for
every destination but r15: result, flags, program counter, frame. TST, TEQ, CMP and CMN write no register, whatever
their `rd`. -/
def Obligations.DataProcessingResult : Prop :=
  ∀ (op : DpOp) (cond : Cond) (sf : Bool) (rn rd : Reg) (o : Op2) (s : State),
    conditionPassed cond s.cpsr = true → (op.writes = true → rd ≠ 15) →
    let a := s.reg rn (op2PcOffset o)
    let b := operand2 o s
    (op.instr cond sf rn rd o).tag = op.tag ∧
    ∃ t, exec (op.instr cond sf rn rd o) s = .next t ∧
      (op.writes = true → t.readSlot (s.here rd) = op.value a b.1 s.cpsr.c) ∧
      t.cpsr = (if sf then op.flags a b.1 s.cpsr.c b.2 s.cpsr else s.cpsr) ∧
      t.pc = s.pc + 4 ∧ Frame s t (if op.writes then [s.here rd] else []) [] []

/-- R30, R181: a result written to r15 without S is a branch: no flag, mode or T changes; `alignPc` is the alignment
of R30, which the other statements use. -/
def Obligations.DataProcessingBranch : Prop :=
  (∀ (t : Bool) (v : Word), alignPc t v = if t then v &&& 0xFFFFFFFE else v &&& 0xFFFFFFFC) ∧
  ∀ (op : DpOp) (cond : Cond) (rn : Reg) (o : Op2) (s : State),
    conditionPassed cond s.cpsr = true → op.writes = true →
    ∃ t, exec (op.instr cond false rn 15 o) s = .next t ∧
      t.pc = alignPc s.cpsr.t (op.value (s.reg rn (op2PcOffset o)) (operand2 o s).1 s.cpsr.c) ∧
      t.cpsr = s.cpsr ∧ Frame s t [] [] []

/-- R181, R430 (a): with S it is an exception return through the SPSR of the current mode, aligned by the restored T;
User and System mode, which have none, refuse it. -/
def Obligations.DataProcessingReturn : Prop :=
  ∀ (op : DpOp) (cond : Cond) (rn : Reg) (o : Op2) (s : State),
    conditionPassed cond s.cpsr = true → op.writes = true →
    (∀ p, s.spsrOf s.cpsr.mode = some p →
      ∃ t, exec (op.instr cond true rn 15 o) s = .next t ∧ t.cpsr = p ∧
        t.pc = alignPc p.t (op.value (s.reg rn (op2PcOffset o)) (operand2 o s).1 s.cpsr.c) ∧ Frame s t [] [] []) ∧
    (s.cpsr.mode = .usr ∨ s.cpsr.mode = .sys → exec (op.instr cond true rn 15 o) s = .refused .noSpsr)

/-- R197: TST, TEQ, CMP and CMN with S clear only advance the program counter. -/
def Obligations.ComparesWithoutSDoNothing : Prop :=
  ∀ (op : DpOp) (cond : Cond) (rn rd : Reg) (o : Op2) (s : State), op.writes = false →
    ∃ t, exec (op.instr cond false rn rd o) s = .next t ∧ t.pc = s.pc + 4 ∧ t.cpsr = s.cpsr ∧ Frame s t [] [] []

/-- R11, R29, R199: what a register read gives; r15 as an operand reads A + 8; A + 12 beside a register-specified
shift (first operand, shifted register and shift amount alike); A + 4 in a compressed instruction. -/
def Obligations.ProgramCounterReads : Prop :=
  (∀ (s : State) (i : Reg) (off : Word), s.reg i off = if i = 15 then s.pc + off else s.readSlot (s.here i)) ∧
  (∀ (s : State) (i : Reg), s.x i = if i = 15 then s.pc + 8 else s.readSlot (s.here i)) ∧
  ∀ (cond : Cond) (rd rs : Reg) (imm : BitVec 8) (s : State), conditionPassed cond s.cpsr = true → rd ≠ 15 →
    (∃ t, exec (.addImm cond false 15 rd 0 imm) s = .next t ∧
      t.readSlot (s.here rd) = s.pc + 8 + imm.setWidth 32) ∧
    (∃ t, exec (.movShiftReg cond false 0 rd rs .lsl 15) s = .next t ∧
      t.readSlot (s.here rd) = (shift .lsl (s.pc + 12) ((s.reg rs 12).toNat % 256) s.cpsr.c true).1) ∧
    (rs ≠ 15 → ∃ t, exec (.addShiftReg cond false 15 rd rs .ror rs) s = .next t ∧
      t.readSlot (s.here rd) = s.pc + 12 + (shift .ror (s.x rs) ((s.x rs).toNat % 256) s.cpsr.c true).1) ∧
    (∃ t, exec (.cAddHi 15 rd) s = .next t ∧ t.readSlot (s.here rd) = s.x rd + (s.pc + 4))

/-! ## Wide multiply -/

/-- R211, R212, R218: MUL and MLA; with S, N and Z of the result, C any value, V unchanged. MUL ignores `rn`, 15
included (the model's reading, log 25). -/
def Obligations.ShortMultiplies : Prop :=
  ∀ (cond : Cond) (sf : Bool) (rd rn rs rm : Reg) (s : State),
    conditionPassed cond s.cpsr = true → rd ≠ 15 → rs ≠ 15 → rm ≠ 15 →
    let leaves := fun (i : Instr) (n : Nat) =>
      ∃ t, exec i s = .next t ∧
        (t.readSlot (s.here rd)).toNat = n % 2 ^ 32 ∧
        (sf = false → t.cpsr = s.cpsr) ∧
        (sf = true → ∃ c, t.cpsr =
          { s.cpsr with n := (t.readSlot (s.here rd)).msb, z := decide (t.readSlot (s.here rd) = 0), c := c }) ∧
        t.pc = s.pc + 4 ∧ Frame s t [s.here rd] [] []
    leaves (.mul cond sf rd rn rs rm) ((s.x rm).toNat * (s.x rs).toNat) ∧
    (rn ≠ 15 → leaves (.mla cond sf rd rn rs rm) ((s.x rm).toNat * (s.x rs).toNat + (s.x rn).toNat))

/-- R213 to R216, R218: the long multiplies; `q` is the 64-bit result, its high word in `rd`, its low word in `rn`
(where they are one register the high word stays); with S, N and Z of `q`, C and V any value. -/
def Obligations.LongMultiplies : Prop :=
  ∀ (cond : Cond) (sf : Bool) (rd rn rs rm : Reg) (s : State),
    conditionPassed cond s.cpsr = true → rd ≠ 15 → rn ≠ 15 → rs ≠ 15 → rm ≠ 15 →
    let acc := (s.x rd).toNat * 2 ^ 32 + (s.x rn).toNat
    let ab := (s.x rm).toNat * (s.x rs).toNat
    let sab := (s.x rm).toInt * (s.x rs).toInt
    ∀ e ∈ [(Instr.umull cond sf rd rn rs rm, BitVec.ofNat 64 ab), (.umlal cond sf rd rn rs rm, BitVec.ofNat 64 (ab + acc)),
        (.smull cond sf rd rn rs rm, BitVec.ofInt 64 sab), (.smlal cond sf rd rn rs rm, BitVec.ofInt 64 (sab + acc))],
      ∃ t, exec e.1 s = .next t ∧
        t.readSlot (s.here rd) = e.2.extractLsb' 32 32 ∧
        (rn ≠ rd → t.readSlot (s.here rn) = e.2.extractLsb' 0 32) ∧
        (sf = false → t.cpsr = s.cpsr) ∧
        (sf = true → ∃ c v, t.cpsr = { s.cpsr with n := e.2.msb, z := decide (e.2 = 0), c := c, v := v }) ∧
        t.pc = s.pc + 4 ∧ Frame s t [s.here rd, s.here rn] [] []

/-- R217, R396: the two tags without a meaning refuse under the default policies, MULHALF when its condition passes. -/
def Obligations.TagsWithoutMeaningRefuse : Prop :=
  (∀ (cond : Cond) (rd rn rs rm : Reg) (hiOp hiYx : BitVec 2) (s : State), conditionPassed cond s.cpsr = true →
    exec (.mulhalf cond rd rn rs rm hiOp hiYx) s = .refused .mulhalfPolicy) ∧
  (∀ (comment : BitVec 8) (s : State), exec (.cBkpt comment) s = .refused .bkptPolicy)

/-! ## Wide status register transfer -/

/-- R230: MRS writes the packed status word, to r15 as a branch (log 13); the SPSR of User or System mode is refused. -/
def Obligations.MrsReadsStatus : Prop :=
  ∀ (cond : Cond) (rd : Reg) (s : State), conditionPassed cond s.cpsr = true →
    (∀ sel p, (sel = PsrSel.cpsr ∧ p = s.cpsr ∨ sel = .spsr ∧ s.spsrOf s.cpsr.mode = some p) →
      ∃ t, exec (.mrs cond sel rd) s = .next t ∧
        (rd ≠ 15 → t.readSlot (s.here rd) = p.pack ∧ t.pc = s.pc + 4) ∧
        (rd = 15 → t.pc = alignPc s.cpsr.t p.pack) ∧
        t.cpsr = s.cpsr ∧ Frame s t [s.here rd] [] []) ∧
    (s.cpsr.mode = .usr ∨ s.cpsr.mode = .sys → exec (.mrs cond .spsr rd) s = .refused .noSpsr)

/-- R39, R231, R233: MSR to the CPSR, both forms: the flags change when `fmask` bit 3 is set, in every mode; I, F, T and
the mode when bit 0 is set and the mode is not User; an unknown mode encoding selects User. -/
def Obligations.MsrWritesCpsr : Prop :=
  ∀ (cond : Cond) (fmask rot : BitVec 4) (imm : BitVec 8) (rm : Reg) (s : State), conditionPassed cond s.cpsr = true →
    ∀ e ∈ [(Instr.msrReg cond .cpsr fmask rm, s.x rm),
        (.msrImm cond .cpsr fmask rot imm, (imm.setWidth 32).rotateRight (2 * rot.toNat))],
      let f := fmask.getLsbD 3
      let c := fmask.getLsbD 0 && s.cpsr.mode != .usr
      ∃ t, exec e.1 s = .next t ∧
        t.cpsr =
          { n := if f then e.2.getLsbD 31 else s.cpsr.n, z := if f then e.2.getLsbD 30 else s.cpsr.z,
            c := if f then e.2.getLsbD 29 else s.cpsr.c, v := if f then e.2.getLsbD 28 else s.cpsr.v,
            irqOff := if c then e.2.getLsbD 7 else s.cpsr.irqOff, fiqOff := if c then e.2.getLsbD 6 else s.cpsr.fiqOff,
            t := if c then e.2.getLsbD 5 else s.cpsr.t,
            mode := if c then Mode.ofBits (e.2.extractLsb' 0 5) else s.cpsr.mode } ∧
        t.pc = s.pc + 4 ∧ Frame s t [] [] []

/-- R37, R231: MSR to the SPSR of the current mode writes that saved status word only; User and System refuse. -/
def Obligations.MsrWritesSpsr : Prop :=
  ∀ (cond : Cond) (fmask rot : BitVec 4) (imm : BitVec 8) (rm : Reg) (s : State), conditionPassed cond s.cpsr = true →
    ∀ e ∈ [(Instr.msrReg cond .spsr fmask rm, s.x rm),
        (.msrImm cond .spsr fmask rot imm, (imm.setWidth 32).rotateRight (2 * rot.toNat))],
      let f := fmask.getLsbD 3
      let c := fmask.getLsbD 0
      (∀ p, s.spsrOf s.cpsr.mode = some p →
        ∃ t, exec e.1 s = .next t ∧
          t.spsrOf s.cpsr.mode = some
            { n := if f then e.2.getLsbD 31 else p.n, z := if f then e.2.getLsbD 30 else p.z,
              c := if f then e.2.getLsbD 29 else p.c, v := if f then e.2.getLsbD 28 else p.v,
              irqOff := if c then e.2.getLsbD 7 else p.irqOff, fiqOff := if c then e.2.getLsbD 6 else p.fiqOff,
              t := if c then e.2.getLsbD 5 else p.t,
              mode := if c then Mode.ofBits (e.2.extractLsb' 0 5) else p.mode } ∧
          t.cpsr = s.cpsr ∧ t.pc = s.pc + 4 ∧ Frame s t [] [s.cpsr.mode] []) ∧
      (s.cpsr.mode = .usr ∨ s.cpsr.mode = .sys → exec e.1 s = .refused .noSpsr)

/-! ## Wide single, half-word, signed and swap transfers -/

/-- R240, R241, R243, R250, R251, R253, R254, with the addressing modes P, U and W spelled out (R240: `target` is base
plus or minus offset, the access is at it or at the base, post-indexed forms always write it back): the loads LDR,
LDRB, LDRH, LDRSB and LDRSH with both offset forms, into a register other than r15; the loaded value wins where `rd`
is also the base. -/
def Obligations.LoadsIntoRegister : Prop :=
  ∀ (cond : Cond) (p u w : Bool) (rn rd : Reg) (imm12 : BitVec 12) (imm8 : BitVec 8) (shamt : BitVec 5)
    (kind : ShiftKind) (rm : Reg) (s : State),
    conditionPassed cond s.cpsr = true → rd ≠ 15 → rm ≠ 15 → (p = false ∨ w = true → rn ≠ 15) →
    let shifted := (shift kind (s.x rm) shamt.toNat s.cpsr.c false).1
    let target := fun off => if u then s.x rn + off else s.x rn - off
    let addr := fun off => if p then target off else s.x rn
    let byte := fun a => (s.load8 a).setWidth 32
    let half := fun a => (s.load16 a).setWidth 32
    ∀ e ∈ [(Instr.ldrImm cond p u w rn rd imm12, imm12.setWidth 32, s.load32),
        (.ldrReg cond p u w rn rd shamt kind rm, shifted, s.load32),
        (.ldrbImm cond p u w rn rd imm12, imm12.setWidth 32, byte),
        (.ldrbReg cond p u w rn rd shamt kind rm, shifted, byte),
        (.ldrhImm cond p u w rn rd imm8, imm8.setWidth 32, half), (.ldrhReg cond p u w rn rd rm, s.x rm, half),
        (.ldrsbImm cond p u w rn rd imm8, imm8.setWidth 32, fun a => (s.load8 a).signExtend 32),
        (.ldrsbReg cond p u w rn rd rm, s.x rm, fun a => (s.load8 a).signExtend 32),
        (.ldrshImm cond p u w rn rd imm8, imm8.setWidth 32, fun a => (s.load16 a).signExtend 32),
        (.ldrshReg cond p u w rn rd rm, s.x rm, fun a => (s.load16 a).signExtend 32)],
      ∃ t, exec e.1 s = .next t ∧
        t.readSlot (s.here rd) = e.2.2 (addr e.2.1) ∧
        (p = false ∨ w = true → rn ≠ rd → t.readSlot (s.here rn) = target e.2.1) ∧
        t.cpsr = s.cpsr ∧ t.pc = s.pc + 4 ∧
        Frame s t (if p = false ∨ w = true then [s.here rd, s.here rn] else [s.here rd]) [] []

/-- R240, R241, R243, R250: the same loads into r15 are branches: no flag, mode or T changes. -/
def Obligations.LoadsIntoProgramCounter : Prop :=
  ∀ (cond : Cond) (p u w : Bool) (rn : Reg) (imm12 : BitVec 12) (imm8 : BitVec 8) (shamt : BitVec 5)
    (kind : ShiftKind) (rm : Reg) (s : State),
    conditionPassed cond s.cpsr = true → rm ≠ 15 → (p = false ∨ w = true → rn ≠ 15) →
    let shifted := (shift kind (s.x rm) shamt.toNat s.cpsr.c false).1
    let target := fun off => if u then s.x rn + off else s.x rn - off
    let addr := fun off => if p then target off else s.x rn
    let byte := fun a => (s.load8 a).setWidth 32
    let half := fun a => (s.load16 a).setWidth 32
    ∀ e ∈ [(Instr.ldrImm cond p u w rn 15 imm12, imm12.setWidth 32, s.load32),
        (.ldrReg cond p u w rn 15 shamt kind rm, shifted, s.load32),
        (.ldrbImm cond p u w rn 15 imm12, imm12.setWidth 32, byte),
        (.ldrbReg cond p u w rn 15 shamt kind rm, shifted, byte),
        (.ldrhImm cond p u w rn 15 imm8, imm8.setWidth 32, half), (.ldrhReg cond p u w rn 15 rm, s.x rm, half),
        (.ldrsbImm cond p u w rn 15 imm8, imm8.setWidth 32, fun a => (s.load8 a).signExtend 32),
        (.ldrsbReg cond p u w rn 15 rm, s.x rm, fun a => (s.load8 a).signExtend 32),
        (.ldrshImm cond p u w rn 15 imm8, imm8.setWidth 32, fun a => (s.load16 a).signExtend 32),
        (.ldrshReg cond p u w rn 15 rm, s.x rm, fun a => (s.load16 a).signExtend 32)],
      ∃ t, exec e.1 s = .next t ∧
        t.pc = alignPc s.cpsr.t (e.2.2 (addr e.2.1)) ∧
        (p = false ∨ w = true → t.readSlot (s.here rn) = target e.2.1) ∧
        t.cpsr = s.cpsr ∧ Frame s t (if p = false ∨ w = true then [s.here rn] else []) [] []

/-- R240, R242, R244, R250, R252: the stores STR, STRB and STRH with both offset forms; the data is read before
write-back, and r15 as data reads A + 12. -/
def Obligations.StoresFromRegister : Prop :=
  ∀ (cond : Cond) (p u w : Bool) (rn rd : Reg) (imm12 : BitVec 12) (imm8 : BitVec 8) (shamt : BitVec 5)
    (kind : ShiftKind) (rm : Reg) (s : State),
    conditionPassed cond s.cpsr = true → rm ≠ 15 → (p = false ∨ w = true → rn ≠ 15) →
    let shifted := (shift kind (s.x rm) shamt.toNat s.cpsr.c false).1
    let target := fun off => if u then s.x rn + off else s.x rn - off
    let addr := fun off => if p then target off else s.x rn
    let v := if rd = 15 then s.pc + 12 else s.x rd
    ∀ e ∈ [(Instr.strImm cond p u w rn rd imm12, imm12.setWidth 32, Size.word),
        (.strReg cond p u w rn rd shamt kind rm, shifted, .word),
        (.strbImm cond p u w rn rd imm12, imm12.setWidth 32, .byte),
        (.strbReg cond p u w rn rd shamt kind rm, shifted, .byte),
        (.strhImm cond p u w rn rd imm8, imm8.setWidth 32, .half), (.strhReg cond p u w rn rd rm, s.x rm, .half)],
      let a := addr e.2.1
      ∃ t, exec e.1 s = .next t ∧
        (s.mem.wf = true → s.plain (span a e.2.2.bytes) →
          (t.memRead a e.2.2).toNat = v.toNat % 2 ^ (8 * e.2.2.bytes)) ∧
        (p = false ∨ w = true → t.readSlot (s.here rn) = target e.2.1) ∧
        t.cpsr = s.cpsr ∧ t.pc = s.pc + 4 ∧
        Frame s t (if p = false ∨ w = true then [s.here rn] else []) [] (span a e.2.2.bytes)

/-- R260, R261: SWP and SWPB exchange a register with memory: the word (or byte) read before the store goes to `rd`. -/
def Obligations.SwapExchanges : Prop :=
  ∀ (cond : Cond) (rn rd rm : Reg) (s : State),
    conditionPassed cond s.cpsr = true → rn ≠ 15 → rd ≠ 15 → rm ≠ 15 →
    ∀ e ∈ [(Instr.swp cond rn rd rm, Size.word, s.load32 (s.x rn)),
        (.swpb cond rn rd rm, .byte, (s.load8 (s.x rn)).setWidth 32)],
      ∃ t, exec e.1 s = .next t ∧
        t.readSlot (s.here rd) = e.2.2 ∧
        (s.mem.wf = true → s.plain (span (s.x rn) e.2.1.bytes) →
          (t.memRead (s.x rn) e.2.1).toNat = (s.x rm).toNat % 2 ^ (8 * e.2.1.bytes)) ∧
        t.cpsr = s.cpsr ∧ t.pc = s.pc + 4 ∧ Frame s t [s.here rd] [] (span (s.x rn) e.2.1.bytes)

/-! ## Wide block transfers -/

/-- R265, R266, R269, R271: LDM with S clear, in the four forms of `blockForms` (IA, IB, DA, DB): the lowest register
comes from the lowest address; the base is written back unless it is in the list; r15 in the list is a branch. -/
def Obligations.LoadMultiple : Prop :=
  ∀ (cond : Cond) (w : Bool) (rn : Reg) (rlist : BitVec 16) (s : State),
    conditionPassed cond s.cpsr = true → rn ≠ 15 →
    ∀ e ∈ blockForms (s.x rn) rlist,
      let addr := blockAddr e.2.2.1 rlist
      ∃ t, exec (.ldm cond e.1 e.2.1 false w rn rlist) s = .next t ∧
        (∀ i, transferred rlist i → i ≠ 15 → t.readSlot (s.here i) = s.load32 (addr i)) ∧
        (w = true → ¬transferred rlist rn → t.readSlot (s.here rn) = e.2.2.2) ∧
        (transferred rlist 15 → t.pc = alignPc s.cpsr.t (s.load32 (addr 15))) ∧
        (¬transferred rlist 15 → t.pc = s.pc + 4) ∧ t.cpsr = s.cpsr ∧
        Frame s t ((if w then [s.here rn] else []) ++ (transferredRegs rlist).map s.here) [] []

/-- R268, R430 (b): LDM with S set and r15 in the list loads through the current bank, then restores the status word
and branches, aligned by the restored T; without an SPSR it is refused. That the base written back is the first mode's
is the model's reading of the order (log 24). -/
def Obligations.LoadMultipleReturns : Prop :=
  ∀ (cond : Cond) (w : Bool) (rn : Reg) (rlist : BitVec 16) (s : State),
    conditionPassed cond s.cpsr = true → rn ≠ 15 → rlist.getLsbD 15 = true →
    ∀ e ∈ blockForms (s.x rn) rlist,
      let addr := blockAddr e.2.2.1 rlist
      (∀ q, s.spsrOf s.cpsr.mode = some q →
        ∃ t, exec (.ldm cond e.1 e.2.1 true w rn rlist) s = .next t ∧
          (∀ i, transferred rlist i → i ≠ 15 → t.readSlot (s.here i) = s.load32 (addr i)) ∧
          (w = true → ¬transferred rlist rn → t.readSlot (s.here rn) = e.2.2.2) ∧
          t.pc = alignPc q.t (s.load32 (addr 15)) ∧ t.cpsr = q ∧
          Frame s t ((if w then [s.here rn] else []) ++ (transferredRegs rlist).map s.here) [] []) ∧
      (s.cpsr.mode = .usr ∨ s.cpsr.mode = .sys → exec (.ldm cond e.1 e.2.1 true w rn rlist) s = .refused .noSpsr)

/-- R268: LDM with S set and r15 not in the list loads the User bank from any mode; the base is the current mode's. -/
def Obligations.LoadMultipleUserBank : Prop :=
  ∀ (cond : Cond) (rn : Reg) (rlist : BitVec 16) (s : State),
    conditionPassed cond s.cpsr = true → rn ≠ 15 → rlist.getLsbD 15 = false →
    ∀ e ∈ blockForms (s.x rn) rlist,
      let addr := blockAddr e.2.2.1 rlist
      ∃ t, exec (.ldm cond e.1 e.2.1 true false rn rlist) s = .next t ∧
        (∀ i, transferred rlist i → i ≠ 15 → t.readSlot (slot .usr i) = s.load32 (addr i)) ∧
        (rlist = 0 → t.pc = alignPc s.cpsr.t (s.load32 (addr 15))) ∧
        (rlist ≠ 0 → t.pc = s.pc + 4) ∧ t.cpsr = s.cpsr ∧
        Frame s t ((transferredRegs rlist).map (slot .usr)) [] []

/-- R265, R267, R268, R269, R271: STM in the four forms of `blockForms`, with S clear or set: the original base is
stored where the base is in the list, r15 as A + 12, every other register from the current bank or, with S, from the
User bank. That a listed base is stored as the current bank's original value with S set too is R267's pseudocode over
R268's prose (log 23). -/
def Obligations.StoreMultiple : Prop :=
  ∀ (cond : Cond) (sb w : Bool) (rn : Reg) (rlist : BitVec 16) (s : State),
    conditionPassed cond s.cpsr = true → rn ≠ 15 → ¬(sb = true ∧ w = true) →
    ∀ e ∈ blockForms (s.x rn) rlist,
      let low := e.2.2.1
      ∃ t, exec (.stm cond e.1 e.2.1 sb w rn rlist) s = .next t ∧
        (s.mem.wf = true → s.plain (blockSpan low rlist) → ∀ i, transferred rlist i →
          t.load32 (blockAddr low rlist i) =
            if i = 15 then s.pc + 12 else if i = rn then s.x rn else if sb then s.readSlot (slot .usr i) else s.x i) ∧
        (w = true → t.readSlot (s.here rn) = e.2.2.2) ∧
        t.cpsr = s.cpsr ∧ t.pc = s.pc + 4 ∧
        Frame s t (if w then [s.here rn] else []) [] (blockSpan low rlist)

/-- R270: the empty register list: where r15 is transferred and what the base becomes, form by form (IA, IB, DA, DB). -/
def Obligations.EmptyListTable : Prop :=
  ∀ (cond : Cond) (w : Bool) (rn : Reg) (s : State), conditionPassed cond s.cpsr = true → rn ≠ 15 →
    ∀ e ∈ [(false, true, s.x rn, s.x rn + 0x40), (true, true, s.x rn + 0x04, s.x rn + 0x40),
        (false, false, s.x rn - 0x3C, s.x rn - 0x40), (true, false, s.x rn - 0x40, s.x rn - 0x40)],
      (∃ t, exec (.ldm cond e.1 e.2.1 false w rn 0) s = .next t ∧ t.pc = alignPc s.cpsr.t (s.load32 e.2.2.1) ∧
        (w = true → t.readSlot (s.here rn) = e.2.2.2) ∧ t.cpsr = s.cpsr ∧
        Frame s t (if w then [s.here rn] else []) [] []) ∧
      (∃ t, exec (.stm cond e.1 e.2.1 false w rn 0) s = .next t ∧
        (s.mem.wf = true → s.plain (span e.2.2.1 4) → t.load32 e.2.2.1 = s.pc + 12) ∧
        (w = true → t.readSlot (s.here rn) = e.2.2.2) ∧ t.cpsr = s.cpsr ∧ t.pc = s.pc + 4 ∧
        Frame s t (if w then [s.here rn] else []) [] (span e.2.2.1 4))

/-- R210, R245, R250, R260, R261, R268, R271: the operand combinations the spec refuses, each by its own name. -/
def Obligations.RefusedOperands : Prop :=
  ∀ (cond : Cond) (s : State), conditionPassed cond s.cpsr = true →
    (∀ (op : MulOp) (sf : Bool) (rd rn rs rm : Reg),
      rd = 15 ∨ rs = 15 ∨ rm = 15 ∨ (op ≠ .mul ∧ rn = 15) →
      exec (op.instr cond sf rd rn rs rm) s = .refused .pcInMultiply) ∧
    (∀ (p u w : Bool) (rn rd : Reg) (shamt : BitVec 5) (kind : ShiftKind) (op : SingleOp) (h : HalfOp),
      exec (op.instrReg cond p u w rn rd shamt kind 15) s = .refused .pcOffset ∧
      exec (h.instrReg cond p u w rn rd 15) s = .refused .pcOffset) ∧
    (∀ (p u w : Bool) (rd rm : Reg) (imm12 : BitVec 12) (imm8 : BitVec 8) (shamt : BitVec 5) (kind : ShiftKind)
      (op : SingleOp) (h : HalfOp), p = false ∨ w = true → rm ≠ 15 →
      exec (op.instrImm cond p u w 15 rd imm12) s = .refused .pcWriteback ∧
      exec (op.instrReg cond p u w 15 rd shamt kind rm) s = .refused .pcWriteback ∧
      exec (h.instrImm cond p u w 15 rd imm8) s = .refused .pcWriteback ∧
      exec (h.instrReg cond p u w 15 rd rm) s = .refused .pcWriteback) ∧
    (∀ rn rd rm : Reg, rn = 15 ∨ rd = 15 ∨ rm = 15 →
      exec (.swp cond rn rd rm) s = .refused .pcInSwap ∧ exec (.swpb cond rn rd rm) s = .refused .pcInSwap) ∧
    (∀ (p u sb w : Bool) (rlist : BitVec 16),
      exec (.ldm cond p u sb w 15 rlist) s = .refused .pcBlockBase ∧
      exec (.stm cond p u sb w 15 rlist) s = .refused .pcBlockBase) ∧
    (∀ (p u : Bool) (rn : Reg) (rlist : BitVec 16), rn ≠ 15 →
      (rlist.getLsbD 15 = false → exec (.ldm cond p u true true rn rlist) s = .refused .userBankWriteback) ∧
      exec (.stm cond p u true true rn rlist) s = .refused .userBankWriteback)

/-! ## Branches and traps -/

/-- R280, R281: B and BL; the displacement is four times the signed offset, from A + 8. -/
def Obligations.WideBranches : Prop :=
  ∀ (cond : Cond) (offset : BitVec 24) (s : State), conditionPassed cond s.cpsr = true →
    let target := alignPc s.cpsr.t (s.pc + 8 + BitVec.ofInt 32 (4 * offset.toInt))
    (∃ t, exec (.b cond offset) s = .next t ∧ t.pc = target ∧ t.cpsr = s.cpsr ∧ Frame s t [] [] []) ∧
    (∃ t, exec (.bl cond offset) s = .next t ∧ t.pc = target ∧ t.readSlot (s.here 14) = s.pc + 4 ∧ t.cpsr = s.cpsr ∧
      Frame s t [s.here 14] [] [])

/-- R282, R333: BX of either set: bit 0 of the register becomes T and selects the alignment; nothing else changes. -/
def Obligations.BranchAndExchange : Prop :=
  ∀ (cond : Cond) (r : Reg) (s : State), conditionPassed cond s.cpsr = true →
    ∀ e ∈ [(Instr.bx cond r, s.reg r 8), (.cBx r, s.reg r 4)],
      ∃ t, exec e.1 s = .next t ∧ t.cpsr = { s.cpsr with t := e.2.getLsbD 0 } ∧
        t.pc = (if e.2.getLsbD 0 then e.2 &&& 0xFFFFFFFE else e.2 &&& 0xFFFFFFFC) ∧ Frame s t [] [] []

/-- R424: taking an exception, the same for the supervisor call and the undefined-instruction trap, wide and compressed:
the old status word goes to the SPSR of the mode entered, the next instruction's address to its r14, T is cleared, I
set, and execution goes on at the vector (the default parameters of R8, log 4); no register of the interrupted mode is
touched. -/
def Obligations.ExceptionEntry : Prop :=
  ∀ (cond : Cond) (c24 : BitVec 24) (c8 : BitVec 8) (s : State), conditionPassed cond s.cpsr = true →
    ∀ e ∈ [(Instr.swi cond c24, Mode.svc, (8 : Word), (4 : Word)), (.undefined cond, .und, 4, 4),
        (.cSwi c8, .svc, 8, 2), (.cUndefined, .und, 4, 2)],
      let m := e.2.1
      ∃ t, exec e.1 s = .next t ∧
        t.spsrOf m = some s.cpsr ∧ t.readSlot (slot m 14) = s.pc + e.2.2.2 ∧
        t.cpsr = { s.cpsr with mode := m, t := false, irqOff := true } ∧
        t.pc = e.2.2.1 ∧ Frame s t [slot m 14] [m] []

/-- R390, R398, R400, R401: the compressed branches. The three rows of the conditional branch have one meaning. -/
def Obligations.CompressedBranches : Prop :=
  ∀ (cond : Cond) (o8 : BitVec 8) (o11 : BitVec 11) (s : State),
    (conditionPassed cond s.cpsr = true →
      ∀ i ∈ [Instr.cBcond0 cond o8, .cBcond8 cond o8, .cBcondC cond o8],
        ∃ t, exec i s = .next t ∧ t.pc = alignPc s.cpsr.t (s.pc + 4 + BitVec.ofInt 32 (2 * o8.toInt)) ∧
          t.cpsr = s.cpsr ∧ Frame s t [] [] []) ∧
    (∃ t, exec (.cB o11) s = .next t ∧ t.pc = alignPc s.cpsr.t (s.pc + 4 + BitVec.ofInt 32 (2 * o11.toInt)) ∧
      t.cpsr = s.cpsr ∧ Frame s t [] [] []) ∧
    (∃ t, exec (.cBlh1 o11) s = .next t ∧ t.pc = s.pc + 2 ∧
      t.readSlot (s.here 14) = s.pc + 4 + BitVec.ofInt 32 (4096 * o11.toInt) ∧
      t.cpsr = s.cpsr ∧ Frame s t [s.here 14] [] []) ∧
    (∃ t, exec (.cBlh2 o11) s = .next t ∧
      t.pc = alignPc s.cpsr.t (s.readSlot (s.here 14) + BitVec.ofNat 32 (2 * o11.toNat)) ∧
      t.readSlot (s.here 14) = (s.pc + 2) ||| 1 ∧ t.cpsr = s.cpsr ∧ Frame s t [s.here 14] [] [])

/-- R402: the two halves of the long branch with link, run one after the other in compressed mode. -/
def Obligations.LongBranchPair : Prop :=
  ∀ (hi lo : BitVec 11) (s : State), s.cpsr.t = true → s.pc.getLsbD 0 = false →
    ∃ s1 t, exec (.cBlh1 hi) s = .next s1 ∧ exec (.cBlh2 lo) s1 = .next t ∧
      t.pc = s.pc + 4 + BitVec.ofInt 32 (4096 * hi.toInt) + BitVec.ofNat 32 (2 * lo.toNat) ∧
      t.readSlot (s.here 14) = (s.pc + 4) ||| 1 ∧ t.cpsr = s.cpsr ∧ Frame s t [s.here 14] [] []

/-! ## Compressed data-processing -/

/-- R304 to R313, R317, R318, R320 to R324, R326, R327, R331: the flag-setting operations of formats 2 to 5, each as the
wide operation its record names, on its own operands; the shifter passes C through. -/
def Obligations.CompressedAluResult : Prop :=
  ∀ (rs rd rn rm : LowReg) (hs hd : Reg) (i3 : BitVec 3) (i8 : BitVec 8) (s : State),
    let x := fun r => s.x (lowReg r)
    ∀ e ∈ [(Instr.cAddReg rm rn rd, DpOp.add, lowReg rd, x rn, x rm),
        (.cSubReg rm rn rd, .sub, lowReg rd, x rn, x rm),
        (.cAddImm3 i3 rn rd, .add, lowReg rd, x rn, i3.setWidth 32),
        (.cSubImm3 i3 rn rd, .sub, lowReg rd, x rn, i3.setWidth 32),
        (.cMovImm8 rd i8, .mov, lowReg rd, 0, i8.setWidth 32), (.cCmpImm8 rd i8, .cmp, lowReg rd, x rd, i8.setWidth 32),
        (.cAddImm8 rd i8, .add, lowReg rd, x rd, i8.setWidth 32),
        (.cSubImm8 rd i8, .sub, lowReg rd, x rd, i8.setWidth 32),
        (.cAnd rs rd, .and, lowReg rd, x rd, x rs), (.cEor rs rd, .eor, lowReg rd, x rd, x rs),
        (.cAdc rs rd, .adc, lowReg rd, x rd, x rs), (.cSbc rs rd, .sbc, lowReg rd, x rd, x rs),
        (.cTst rs rd, .tst, lowReg rd, x rd, x rs), (.cNeg rs rd, .rsb, lowReg rd, x rs, 0),
        (.cCmp rs rd, .cmp, lowReg rd, x rd, x rs), (.cCmn rs rd, .cmn, lowReg rd, x rd, x rs),
        (.cOrr rs rd, .orr, lowReg rd, x rd, x rs), (.cBic rs rd, .bic, lowReg rd, x rd, x rs),
        (.cMvn rs rd, .mvn, lowReg rd, 0, x rs), (.cCmpHi hs hd, .cmp, hd, s.reg hd 4, s.reg hs 4)],
      let op := e.2.1
      let a := e.2.2.2.1
      let b := e.2.2.2.2
      e.1.tag = op.tag ∧ ∃ t, exec e.1 s = .next t ∧
        (op.writes = true → t.readSlot (s.here e.2.2.1) = op.value a b s.cpsr.c) ∧
        t.cpsr = op.flags a b s.cpsr.c s.cpsr.c s.cpsr ∧
        t.pc = s.pc + 2 ∧ Frame s t (if op.writes then [s.here e.2.2.1] else []) [] []

/-- R301 to R303, R314 to R316, R319: the shifts of formats 1 and 4, on the shifter of `ShifterTable`. -/
def Obligations.CompressedShiftResult : Prop :=
  ∀ (shamt : BitVec 5) (rm rs rd : LowReg) (s : State),
    let x := fun r => s.x (lowReg r)
    let byImm := fun kind => shift kind (x rm) shamt.toNat s.cpsr.c false
    let byReg := fun kind => shift kind (x rd) ((x rs).toNat % 256) s.cpsr.c true
    ∀ e ∈ [(Instr.cLslImm shamt rm rd, byImm .lsl), (.cLsrImm shamt rm rd, byImm .lsr),
        (.cAsrImm shamt rm rd, byImm .asr), (.cLslReg rs rd, byReg .lsl), (.cLsrReg rs rd, byReg .lsr),
        (.cAsrReg rs rd, byReg .asr), (.cRorReg rs rd, byReg .ror)],
      ∃ t, exec e.1 s = .next t ∧
        t.readSlot (s.here (lowReg rd)) = e.2.1 ∧
        t.cpsr = { s.cpsr with n := e.2.1.msb, z := decide (e.2.1 = 0), c := e.2.2 } ∧
        t.pc = s.pc + 2 ∧ Frame s t [s.here (lowReg rd)] [] []

/-- R325: the compressed MUL: C any value, V unchanged. -/
def Obligations.CompressedMultiply : Prop :=
  ∀ (rs rd : LowReg) (s : State),
    ∃ t c, exec (.cMul rs rd) s = .next t ∧
      (t.readSlot (s.here (lowReg rd))).toNat =
        ((s.x (lowReg rd)).toNat * (s.x (lowReg rs)).toNat) % 2 ^ 32 ∧
      t.cpsr = { s.cpsr with n := (t.readSlot (s.here (lowReg rd))).msb,
                             z := decide (t.readSlot (s.here (lowReg rd)) = 0), c := c } ∧
      t.pc = s.pc + 2 ∧ Frame s t [s.here (lowReg rd)] [] []

/-- R330, R332, R370 to R373: the operations that change no flag: ADD and MOV with full register numbers (r15 as a
destination is a branch with T unchanged, r15 as a source reads A + 4), and the address computations of formats 12 and
13, where the program counter is taken with bits 1:0 cleared. -/
def Obligations.CompressedFlaglessResult : Prop :=
  ∀ (rs rd : Reg) (ld : LowReg) (i8 : BitVec 8) (i7 : BitVec 7) (s : State),
    let sp := s.readSlot (s.here 13)
    ∀ e ∈ [(Instr.cAddHi rs rd, rd, s.reg rd 4 + s.reg rs 4), (.cMovHi rs rd, rd, s.reg rs 4),
        (.cAddPc ld i8, lowReg ld, ((s.pc + 4) &&& 0xFFFFFFFC) + BitVec.ofNat 32 (4 * i8.toNat)),
        (.cAddSp ld i8, lowReg ld, sp + BitVec.ofNat 32 (4 * i8.toNat)),
        (.cAddSpImm i7, 13, sp + BitVec.ofNat 32 (4 * i7.toNat)),
        (.cSubSpImm i7, 13, sp - BitVec.ofNat 32 (4 * i7.toNat))],
      ∃ t, exec e.1 s = .next t ∧
        (e.2.1 ≠ 15 → t.readSlot (s.here e.2.1) = e.2.2 ∧ t.pc = s.pc + 2) ∧
        (e.2.1 = 15 → t.pc = alignPc s.cpsr.t e.2.2) ∧
        t.cpsr = s.cpsr ∧ Frame s t [s.here e.2.1] [] []

/-! ## Compressed transfers -/

/-- R340, R343, R344, R346 to R348, R361, R363, R365, R367: the compressed loads. -/
def Obligations.CompressedLoads : Prop :=
  ∀ (rm rn rd : LowReg) (i5 : BitVec 5) (i8 : BitVec 8) (s : State),
    let base := s.x (lowReg rn)
    let index := base + s.x (lowReg rm)
    let sp := s.readSlot (s.here 13)
    ∀ e ∈ [(Instr.cLdrPc rd i8, s.load32 (((s.pc + 4) &&& 0xFFFFFFFC) + BitVec.ofNat 32 (4 * i8.toNat))),
        (.cLdrReg rm rn rd, s.load32 index), (.cLdrbReg rm rn rd, (s.load8 index).setWidth 32),
        (.cLdrhReg rm rn rd, (s.load16 index).setWidth 32), (.cLdrsbReg rm rn rd, (s.load8 index).signExtend 32),
        (.cLdrshReg rm rn rd, (s.load16 index).signExtend 32),
        (.cLdrImm i5 rn rd, s.load32 (base + BitVec.ofNat 32 (4 * i5.toNat))),
        (.cLdrbImm i5 rn rd, (s.load8 (base + BitVec.ofNat 32 i5.toNat)).setWidth 32),
        (.cLdrhImm i5 rn rd, (s.load16 (base + BitVec.ofNat 32 (2 * i5.toNat))).setWidth 32),
        (.cLdrSp rd i8, s.load32 (sp + BitVec.ofNat 32 (4 * i8.toNat)))],
      ∃ t, exec e.1 s = .next t ∧ t.readSlot (s.here (lowReg rd)) = e.2 ∧
        t.cpsr = s.cpsr ∧ t.pc = s.pc + 2 ∧ Frame s t [s.here (lowReg rd)] [] []

/-- R341, R342, R345, R360, R362, R364, R366: the compressed stores. -/
def Obligations.CompressedStores : Prop :=
  ∀ (rm rn rd : LowReg) (i5 : BitVec 5) (i8 : BitVec 8) (s : State),
    let base := s.x (lowReg rn)
    let index := base + s.x (lowReg rm)
    ∀ e ∈ [(Instr.cStrReg rm rn rd, Size.word, index), (.cStrbReg rm rn rd, .byte, index),
        (.cStrhReg rm rn rd, .half, index),
        (.cStrImm i5 rn rd, .word, base + BitVec.ofNat 32 (4 * i5.toNat)),
        (.cStrbImm i5 rn rd, .byte, base + BitVec.ofNat 32 i5.toNat),
        (.cStrhImm i5 rn rd, .half, base + BitVec.ofNat 32 (2 * i5.toNat)),
        (.cStrSp rd i8, .word, s.readSlot (s.here 13) + BitVec.ofNat 32 (4 * i8.toNat))],
      ∃ t, exec e.1 s = .next t ∧
        (s.mem.wf = true → s.plain (span e.2.2 e.2.1.bytes) →
          (t.memRead e.2.2 e.2.1).toNat = (s.x (lowReg rd)).toNat % 2 ^ (8 * e.2.1.bytes)) ∧
        t.cpsr = s.cpsr ∧ t.pc = s.pc + 2 ∧ Frame s t [] [] (span e.2.2 e.2.1.bytes)

/-- R381, R383, R269, R270: POP (with r15 when `r` is set) and LDMIA, empty lists included: registers, base, program
counter. -/
def Obligations.CompressedBlockLoads : Prop :=
  ∀ (r : Bool) (rb : LowReg) (rlist : BitVec 8) (s : State),
    ∀ e ∈ [(Instr.cPop r rlist, (13 : Reg), rlist.setWidth 16 ||| (if r then 0x8000#16 else 0)),
        (.cLdmia rb rlist, lowReg rb, rlist.setWidth 16)],
      let base := s.readSlot (s.here e.2.1)
      let addr := blockAddr base e.2.2
      ∃ t, exec e.1 s = .next t ∧
        (∀ i, transferred e.2.2 i → i ≠ 15 → t.readSlot (s.here i) = s.load32 (addr i)) ∧
        (¬transferred e.2.2 e.2.1 → t.readSlot (s.here e.2.1) = base + BitVec.ofNat 32 (4 * blockWords e.2.2)) ∧
        (transferred e.2.2 15 → t.pc = alignPc s.cpsr.t (s.load32 (addr 15))) ∧
        (¬transferred e.2.2 15 → t.pc = s.pc + 2) ∧ t.cpsr = s.cpsr ∧
        Frame s t (s.here e.2.1 :: (transferredRegs e.2.2).map s.here) [] []

/-- R380, R382, R384: PUSH (with r14 when `r` is set) and STMIA, empty lists included: every listed register but r15,
which only an empty list transfers and whose stored value the spec leaves open, is stored with the value it had before,
and the base moves. -/
def Obligations.CompressedBlockStores : Prop :=
  ∀ (r : Bool) (rb : LowReg) (rlist : BitVec 8) (s : State),
    let sp := s.readSlot (s.here 13)
    let rb' := s.readSlot (s.here (lowReg rb))
    let list := rlist.setWidth 16 ||| (if r then 0x4000#16 else 0)
    let n := BitVec.ofNat 32 (4 * blockWords list)
    let n' := BitVec.ofNat 32 (4 * blockWords (rlist.setWidth 16))
    ∀ e ∈ [(Instr.cPush r rlist, (13 : Reg), list, sp - n, sp - n),
        (.cStmia rb rlist, lowReg rb, rlist.setWidth 16, rb', rb' + n')],
      let low := e.2.2.2.1
      ∃ t, exec e.1 s = .next t ∧
        (s.mem.wf = true → s.plain (blockSpan low e.2.2.1) → ∀ i, transferred e.2.2.1 i → i ≠ 15 →
          t.load32 (blockAddr low e.2.2.1 i) = s.readSlot (s.here i)) ∧
        t.readSlot (s.here e.2.1) = e.2.2.2.2 ∧
        t.cpsr = s.cpsr ∧ t.pc = s.pc + 2 ∧
        Frame s t [s.here e.2.1] [] (blockSpan low e.2.2.1)

/-! ## The machine -/

/-- R12, R62, R66: a step runs the instruction the bytes at R15 decode to, with the decoder T selects. What the step
adds around `exec` is the model's own free-value counter (log 8): the fetch reads at index `free + 1` (which only a
device can tell), `exec` starts at `free + 2`. -/
def Obligations.StepRunsDecodedInstruction : Prop :=
  ∀ (s : State) (i : Instr) (rest : List Byte),
    decode s.cpsr.t ((span s.pc (if s.cpsr.t then 2 else 4)).map ({ s with free := s.free + 1 }).load8) = .ok (i, rest) →
    step s = exec i { s with free := s.free + 2 }

/-- The invariant: canonical memory and an aligned program counter, kept by every step from every state that has it. -/
def Obligations.StepKeepsInvariant : Prop :=
  ∀ s t : State, s.Inv → step s = .next t → t.Inv

/-- The invariant holds right after reset. -/
def Obligations.ResetHasInvariant : Prop := State.reset.Inv

/-- R42, R461: what the spec gives of the state after reset: R15, the mode, I, F and T, at the default parameters (log
4). -/
def Obligations.ResetControlState : Prop :=
  State.reset.pc = 0x00000000 ∧ State.reset.cpsr.mode = .svc ∧ State.reset.cpsr.irqOff = true ∧
    State.reset.cpsr.fiqOff = true ∧ State.reset.cpsr.t = false

/-- R440: User mode is left by a supervisor call, for Supervisor mode, or by an UNDEFINED word, for Undefined mode,
and in no other way; and nothing else changes I or F in User mode. -/
def Obligations.UserModeLeftOnlyByTrap : Prop :=
  ∀ (i : Instr) (s t : State), s.cpsr.mode = .usr → exec i s = .next t →
    (t.cpsr.mode = .usr ∧ t.cpsr.irqOff = s.cpsr.irqOff ∧ t.cpsr.fiqOff = s.cpsr.fiqOff) ∨
    (t.cpsr.mode = .svc ∧ ((∃ cond c, i = .swi cond c) ∨ ∃ c, i = .cSwi c)) ∨
    (t.cpsr.mode = .und ∧ ((∃ cond, i = .undefined cond) ∨ i = .cUndefined))

/-- R23, R24, R39, R424: what runs in User mode changes no private register of another mode and no saved status word,
but for the r14 and the SPSR of the mode a trap enters. -/
def Obligations.UserModeLeavesPrivateState : Prop :=
  ∀ (i : Instr) (s t : State), s.cpsr.mode = .usr → exec i s = .next t →
    (∀ (m : Mode) (r : Reg), bankOf m r ≠ .usr → ¬(m = t.cpsr.mode ∧ r = 14) →
      t.readSlot (slot m r) = s.readSlot (slot m r)) ∧
    (∀ m, m ≠ t.cpsr.mode → t.spsrOf m = s.spsrOf m)

/-! ## The second operand -/

/-- R176: the second operand of data-processing and its carry, form by form, with the value r15 has as `rn`, `rm` and
`rs`; and ADD and MOVS by both kinds of shift end with it. -/
def Obligations.SecondOperandForms : Prop :=
  ∀ (cond : Cond) (rn rd rm rs : Reg) (shamt : BitVec 5) (kind : ShiftKind) (rot : BitVec 4) (imm : BitVec 8) (s : State),
    let read := fun (i : Reg) (off : Word) => if i = 15 then s.pc + off else s.readSlot (s.here i)
    let byImm := shift kind (read rm 8) shamt.toNat s.cpsr.c false
    let byReg := shift kind (read rm 12) ((read rs 12).toNat % 256) s.cpsr.c true
    let rotated := (imm.setWidth 32).rotateRight (2 * rot.toNat)
    operand2 (.imm rot imm) s = (rotated, if rot = 0 then s.cpsr.c else rotated.msb) ∧
    operand2 (.shiftImm shamt kind rm) s = byImm ∧ operand2 (.shiftReg rs kind rm) s = byReg ∧
    s.reg rn (op2PcOffset (.imm rot imm)) = read rn 8 ∧ s.reg rn (op2PcOffset (.shiftImm shamt kind rm)) = read rn 8 ∧
    s.reg rn (op2PcOffset (.shiftReg rs kind rm)) = read rn 12 ∧
    (conditionPassed cond s.cpsr = true → rd ≠ 15 →
      (∃ t, exec (.addShiftImm cond false rn rd shamt kind rm) s = .next t ∧
        t.readSlot (s.here rd) = read rn 8 + byImm.1 ∧ t.cpsr = s.cpsr) ∧
      (∃ t, exec (.addShiftReg cond false rn rd rs kind rm) s = .next t ∧
        t.readSlot (s.here rd) = read rn 12 + byReg.1 ∧ t.cpsr = s.cpsr) ∧
      (∃ t, exec (.movShiftImm cond true rn rd shamt kind rm) s = .next t ∧
        t.readSlot (s.here rd) = byImm.1 ∧ t.cpsr.c = byImm.2 ∧ t.cpsr.v = s.cpsr.v) ∧
      (∃ t, exec (.movShiftReg cond true rn rd rs kind rm) s = .next t ∧
        t.readSlot (s.here rd) = byReg.1 ∧ t.cpsr.c = byReg.2 ∧ t.cpsr.v = s.cpsr.v))

end Statements
end

