-- ==== Sys2Proof/Laws/Bits.lean ====
section
/-! SUPPORT. The extractors `bit` and `bits` on words put together from fields: what the round-trip lemmas compute
with. -/

namespace Sys2Proof

theorem bits_eq {n len : Nat} (w : BitVec n) (hi lo : Nat) (h : hi + 1 - lo = len) :
    (bits w hi lo : BitVec len) = w.extractLsb' lo len := by subst h; simp [bits]

/-- R141: bit `i` of a run is bit `lo + i` of the word. -/
theorem getLsbD_bits {n len : Nat} (w : BitVec n) (hi lo i : Nat) :
    (bits w hi lo : BitVec len).getLsbD i =
      (decide (i < len) && (decide (i < hi + 1 - lo) && w.getLsbD (lo + i))) := by
  simp [bits]

theorem bits_or {n len : Nat} (a b : BitVec n) (hi lo : Nat) :
    (bits (a ||| b) hi lo : BitVec len) = bits a hi lo ||| bits b hi lo := by
  apply BitVec.eq_of_getLsbD_eq
  intro i _
  simp only [getLsbD_bits, BitVec.getLsbD_or, Bool.and_or_distrib_left]

theorem bit_or {n : Nat} (a b : BitVec n) (i : Nat) : bit (a ||| b) i = (bit a i || bit b i) := by simp [bit]

theorem bit_place {n len : Nat} (v : BitVec len) (lo i : Nat) :
    bit (place n v lo) i = (decide (i < n) && decide (lo ≤ i) && v.getLsbD (i - lo)) := by
  simp [bit, place]; grind

theorem bits_place_same {n len : Nat} (v : BitVec len) (hi lo : Nat) (h : hi + 1 = lo + len) (hn : hi < n) :
    (bits (place n v lo) hi lo : BitVec len) = v := by
  apply BitVec.eq_of_getLsbD_eq
  intro i hi'
  have : hi + 1 - lo = len := by omega
  simp [bits, place]
  grind

theorem bits_place_off {n len len' : Nat} (v : BitVec len) (hi lo lo' : Nat) (h : hi < lo' ∨ lo' + len ≤ lo) :
    (bits (place n v lo') hi lo : BitVec len') = 0 := by
  apply BitVec.eq_of_getLsbD_eq
  intro i _
  simp only [getLsbD_bits]
  by_cases hi' : i < hi + 1 - lo
  · have : (place n v lo').getLsbD (lo + i) = false := by
      have := bit_place (n := n) v lo' (lo + i)
      simp only [bit] at this
      rw [this]
      rcases h with h | h
      · simp; intros; omega
      · simp [BitVec.getLsbD_of_ge v (lo + i - lo') (by omega)]
    simp [this]
  · simp [hi']

theorem bit_flag {n : Nat} (b : Bool) (lo i : Nat) :
    bit (flag n b lo) i = (decide (i < n) && decide (lo = i) && b) := by
  by_cases h : lo = i
  · subst h; simp [flag, bit_place]
  · simp only [flag, bit_place, h, decide_false, Bool.and_false, Bool.false_and]
    simp only [BitVec.getLsbD_ofBool, Bool.and_eq_false_iff, decide_eq_false_iff_not]
    cases b
    · simp
    · simp; omega

theorem bits_flag_off {n len' : Nat} (b : Bool) (hi lo lo' : Nat) (h : hi < lo' ∨ lo' < lo) :
    (bits (flag n b lo') hi lo : BitVec len') = 0 := bits_place_off _ _ _ _ (by omega)

/-- A run of a run. -/
theorem bits_bits {n len len' : Nat} (w : BitVec n) (hi lo h l : Nat) (hh : h < hi + 1 - lo) (hl : h < len) :
    (bits (bits w hi lo : BitVec len) h l : BitVec len') = bits w (lo + h) (lo + l) := by
  apply BitVec.eq_of_getLsbD_eq
  intro i _
  simp only [getLsbD_bits]
  have e : lo + (l + i) = lo + l + i := by omega
  have e2 : (i < lo + h + 1 - (lo + l)) ↔ i < h + 1 - l := by omega
  by_cases h1 : i < h + 1 - l
  · simp [h1, e2, e, show l + i < len by omega, show l + i < hi + 1 - lo by omega]
  · simp [h1, e2]

/-- A bit of a run. -/
theorem bit_bits {n len : Nat} (w : BitVec n) (hi lo i : Nat) (h : i < hi + 1 - lo) (hl : i < len) :
    bit (bits w hi lo : BitVec len) i = bit w (lo + i) := by
  rw [bit, getLsbD_bits]; simp [bit, h, hl]

/-- A run is a constant exactly when its bits are the constant's. -/
theorem bits_eq_iff {n len : Nat} {w : BitVec n} {hi lo : Nat} {c : BitVec len} (hl : hi + 1 - lo = len) :
    bits w hi lo = c ↔ ∀ i < len, bit w (lo + i) = bit c i := by
  constructor
  · intro h i h2; rw [← h, bit_bits _ _ _ _ (by omega) h2]
  · intro h; apply BitVec.eq_of_getLsbD_eq; intro i hi'
    have := h i hi'
    rw [getLsbD_bits]; simp [hi', hl]; exact this

/-- A bit of a literal. -/
theorem bit_const {n : Nat} (k i : Nat) : bit (BitVec.ofNat n k) i = (decide (i < n) && k.testBit i) := by
  simp [bit, BitVec.getLsbD_ofNat]

/-! Runs of two to six bits, bit by bit. -/

theorem run2 {n : Nat} {w : BitVec n} {hi lo : Nat} {c : BitVec 2} (hl : hi + 1 - lo = 2) :
    bits w hi lo = c ↔
      bit w lo = bit c 0 ∧ bit w (lo + 1) = bit c 1 := by
  rw [bits_eq_iff hl]
  refine ⟨fun h => ⟨h 0 (by omega), h 1 (by omega)⟩, ?_⟩
  intro h i hi'
  match i, hi' with
  | 0, _ => exact h.1
  | 1, _ => exact h.2

theorem run3 {n : Nat} {w : BitVec n} {hi lo : Nat} {c : BitVec 3} (hl : hi + 1 - lo = 3) :
    bits w hi lo = c ↔
      bit w lo = bit c 0 ∧ bit w (lo + 1) = bit c 1 ∧ bit w (lo + 2) = bit c 2 := by
  rw [bits_eq_iff hl]
  refine ⟨fun h => ⟨h 0 (by omega), h 1 (by omega), h 2 (by omega)⟩, ?_⟩
  intro h i hi'
  match i, hi' with
  | 0, _ => exact h.1
  | 1, _ => exact h.2.1
  | 2, _ => exact h.2.2

theorem run4 {n : Nat} {w : BitVec n} {hi lo : Nat} {c : BitVec 4} (hl : hi + 1 - lo = 4) :
    bits w hi lo = c ↔
      bit w lo = bit c 0 ∧ bit w (lo + 1) = bit c 1 ∧ bit w (lo + 2) = bit c 2 ∧ bit w (lo + 3) = bit c 3 := by
  rw [bits_eq_iff hl]
  refine ⟨fun h => ⟨h 0 (by omega), h 1 (by omega), h 2 (by omega), h 3 (by omega)⟩, ?_⟩
  intro h i hi'
  match i, hi' with
  | 0, _ => exact h.1
  | 1, _ => exact h.2.1
  | 2, _ => exact h.2.2.1
  | 3, _ => exact h.2.2.2

theorem run5 {n : Nat} {w : BitVec n} {hi lo : Nat} {c : BitVec 5} (hl : hi + 1 - lo = 5) :
    bits w hi lo = c ↔
      bit w lo = bit c 0 ∧ bit w (lo + 1) = bit c 1 ∧ bit w (lo + 2) = bit c 2 ∧ bit w (lo + 3) = bit c 3
        ∧ bit w (lo + 4) = bit c 4 := by
  rw [bits_eq_iff hl]
  refine ⟨fun h => ⟨h 0 (by omega), h 1 (by omega), h 2 (by omega), h 3 (by omega),
    h 4 (by omega)⟩, ?_⟩
  intro h i hi'
  match i, hi' with
  | 0, _ => exact h.1
  | 1, _ => exact h.2.1
  | 2, _ => exact h.2.2.1
  | 3, _ => exact h.2.2.2.1
  | 4, _ => exact h.2.2.2.2

theorem run6 {n : Nat} {w : BitVec n} {hi lo : Nat} {c : BitVec 6} (hl : hi + 1 - lo = 6) :
    bits w hi lo = c ↔
      bit w lo = bit c 0 ∧ bit w (lo + 1) = bit c 1 ∧ bit w (lo + 2) = bit c 2 ∧ bit w (lo + 3) = bit c 3
        ∧ bit w (lo + 4) = bit c 4 ∧ bit w (lo + 5) = bit c 5 := by
  rw [bits_eq_iff hl]
  refine ⟨fun h => ⟨h 0 (by omega), h 1 (by omega), h 2 (by omega), h 3 (by omega),
    h 4 (by omega), h 5 (by omega)⟩, ?_⟩
  intro h i hi'
  match i, hi' with
  | 0, _ => exact h.1
  | 1, _ => exact h.2.1
  | 2, _ => exact h.2.2.1
  | 3, _ => exact h.2.2.2.1
  | 4, _ => exact h.2.2.2.2.1
  | 5, _ => exact h.2.2.2.2.2

/-- A word that fails one bit of a pattern fails the pattern. -/
theorem bits_ne {n len : Nat} {w : BitVec n} {hi lo : Nat} {c : BitVec len} (i : Nat) (hl : hi + 1 - lo = len)
    (hi' : i < len) (h : bit w (lo + i) = !bit c i) : bits w hi lo ≠ c := fun e => by
  rw [(bits_eq_iff hl).1 e i hi'] at h; simp at h

end Sys2Proof
end

