-- ==== Sys2Proof/Laws/State.lean ====
section
/-! SUPPORT. What each state update changes and what it leaves: register slots, the program counter, the status words.
Later proofs cite these lemmas and never unfold an update. -/

namespace Sys2Proof.Machine

/-! ## Slots -/

/-- R24: no two indices of one mode share a slot. -/
theorem slot_inj (m : Mode) (i j : Reg) : slot m i = slot m j ↔ i = j := by
  cases m <;> revert i j <;> decide

/-- R24, R28: r15 is the same slot in every mode. -/
@[simp] theorem slot_pc (m : Mode) : slot m 15#4 = pcSlot := by cases m <;> rfl

@[simp] theorem slot_eq_pcSlot (m : Mode) (i : Reg) : slot m i = pcSlot ↔ i = 15#4 := by
  rw [← slot_pc m, slot_inj]

theorem slot_usr (i : Reg) : slot .usr i = .shared i.toFin := rfl

@[simp] theorem lowReg_ne_pc (r : LowReg) : lowReg r ≠ 15#4 := by revert r; decide

theorem lowReg_inj (r q : LowReg) : lowReg r = lowReg q ↔ r = q := by revert r q; decide

/-- R24: r0 to r7 are shared by all modes. -/
theorem slot_lowReg (m : Mode) (r : LowReg) : slot m (lowReg r) = .shared (lowReg r).toFin := by
  cases m <;> revert r <;> decide

/-! ## `writeSlot` -/

section WriteSlot
variable (s : State) (σ τ : Slot) (v : Word)

@[simp] theorem readSlot_writeSlot_same : (s.writeSlot σ v).readSlot σ = v := by
  cases σ <;> simp [State.writeSlot, State.readSlot]

theorem readSlot_writeSlot : (s.writeSlot σ v).readSlot τ = if τ = σ then v else s.readSlot τ := by
  cases σ <;> cases τ <;> simp [State.writeSlot, State.readSlot, Vector.getElem_set, Fin.ext_iff, eq_comm]

theorem readSlot_writeSlot_other (h : τ ≠ σ) : (s.writeSlot σ v).readSlot τ = s.readSlot τ := by
  rw [readSlot_writeSlot, if_neg h]

@[simp] theorem writeSlot_cpsr : (s.writeSlot σ v).cpsr = s.cpsr := by cases σ <;> rfl
@[simp] theorem writeSlot_mem : (s.writeSlot σ v).mem = s.mem := by cases σ <;> rfl
@[simp] theorem writeSlot_bus : (s.writeSlot σ v).bus = s.bus := by cases σ <;> rfl
@[simp] theorem writeSlot_free : (s.writeSlot σ v).free = s.free := by cases σ <;> rfl
@[simp] theorem writeSlot_spsrOf (m : Mode) : (s.writeSlot σ v).spsrOf m = s.spsrOf m := by cases σ <;> rfl

theorem writeSlot_withCpsr (p : Psr) : (s.withCpsr p).writeSlot σ v = (s.writeSlot σ v).withCpsr p := by
  cases σ <;> rfl

theorem writeSlot_writeSlot (w : Word) : (s.writeSlot σ v).writeSlot σ w = s.writeSlot σ w := by
  cases σ <;> simp [State.writeSlot, Vector.set_set]

end WriteSlot

/-! ## The program counter -/

section Pc
variable (s : State) (v : Word)

theorem pc_writeSlot (σ : Slot) : (s.writeSlot σ v).pc = if pcSlot = σ then v else s.pc := by
  simp [State.pc, readSlot_writeSlot]

theorem readSlot_pcSlot : s.readSlot pcSlot = s.pc := rfl

@[simp] theorem setPc_pc : (s.setPc v).pc = v := by simp [State.pc, State.setPc]
@[simp] theorem setPc_cpsr : (s.setPc v).cpsr = s.cpsr := by simp [State.setPc]
@[simp] theorem setPc_mem : (s.setPc v).mem = s.mem := by simp [State.setPc]
@[simp] theorem setPc_bus : (s.setPc v).bus = s.bus := by simp [State.setPc]
@[simp] theorem setPc_free : (s.setPc v).free = s.free := by simp [State.setPc]
@[simp] theorem setPc_spsrOf (m : Mode) : (s.setPc v).spsrOf m = s.spsrOf m := by simp [State.setPc]
theorem setPc_readSlot {σ : Slot} (h : σ ≠ pcSlot) : (s.setPc v).readSlot σ = s.readSlot σ :=
  readSlot_writeSlot_other _ _ _ _ h
@[simp] theorem setPc_setPc (w : Word) : (s.setPc v).setPc w = s.setPc w := writeSlot_writeSlot _ _ _ _

@[simp] theorem branchTo_pc : (s.branchTo v).pc = alignPc s.cpsr.t v := by simp [State.branchTo]
@[simp] theorem branchTo_cpsr : (s.branchTo v).cpsr = s.cpsr := by simp [State.branchTo]
@[simp] theorem branchTo_mem : (s.branchTo v).mem = s.mem := by simp [State.branchTo]
@[simp] theorem branchTo_bus : (s.branchTo v).bus = s.bus := by simp [State.branchTo]
@[simp] theorem branchTo_free : (s.branchTo v).free = s.free := by simp [State.branchTo]
@[simp] theorem branchTo_spsrOf (m : Mode) : (s.branchTo v).spsrOf m = s.spsrOf m := by simp [State.branchTo]
theorem branchTo_readSlot {σ : Slot} (h : σ ≠ pcSlot) : (s.branchTo v).readSlot σ = s.readSlot σ :=
  setPc_readSlot _ _ h

@[simp] theorem advance_pc : (s.advance v).pc = s.pc + v := by simp [State.advance]
@[simp] theorem advance_cpsr : (s.advance v).cpsr = s.cpsr := by simp [State.advance]
@[simp] theorem advance_mem : (s.advance v).mem = s.mem := by simp [State.advance]
@[simp] theorem advance_bus : (s.advance v).bus = s.bus := by simp [State.advance]
@[simp] theorem advance_free : (s.advance v).free = s.free := by simp [State.advance]
@[simp] theorem advance_spsrOf (m : Mode) : (s.advance v).spsrOf m = s.spsrOf m := by simp [State.advance]
theorem advance_readSlot {σ : Slot} (h : σ ≠ pcSlot) : (s.advance v).readSlot σ = s.readSlot σ :=
  setPc_readSlot _ _ h

/-- R30: what alignment leaves is aligned. -/
@[simp] theorem alignPc_alignPc (t : Bool) : alignPc t (alignPc t v) = alignPc t v := by
  cases t <;> simp [alignPc, BitVec.and_assoc]

end Pc

/-! ## `setX`, `setXu` -/

section SetX
variable (s : State) (i : Reg) (v : Word)

@[simp] theorem setX_cpsr : (s.setX i v).cpsr = s.cpsr := by unfold State.setX; split <;> simp
@[simp] theorem setX_mem : (s.setX i v).mem = s.mem := by unfold State.setX; split <;> simp
@[simp] theorem setX_bus : (s.setX i v).bus = s.bus := by unfold State.setX; split <;> simp
@[simp] theorem setX_free : (s.setX i v).free = s.free := by unfold State.setX; split <;> simp
@[simp] theorem setX_spsrOf (m : Mode) : (s.setX i v).spsrOf m = s.spsrOf m := by unfold State.setX; split <;> simp

/-- R25: a write of a register other than r15 replaces its slot and nothing else. -/
theorem setX_eq (h : i ≠ 15#4) : s.setX i v = s.writeSlot (slot s.cpsr.mode i) v := by simp [State.setX, h]

/-- R30: a write of r15 is a control transfer. -/
@[simp] theorem setX_pc15 : s.setX 15#4 v = s.branchTo v := by simp [State.setX]

theorem setX_readSlot_same (h : i ≠ 15#4) : (s.setX i v).readSlot (slot s.cpsr.mode i) = v := by simp [setX_eq, h]

theorem setX_readSlot {σ : Slot} (h : σ ≠ slot s.cpsr.mode i) (hp : σ ≠ pcSlot) :
    (s.setX i v).readSlot σ = s.readSlot σ := by
  unfold State.setX; split
  · exact branchTo_readSlot _ _ hp
  · exact readSlot_writeSlot_other _ _ _ _ h

theorem setX_pc (h : i ≠ 15#4) : (s.setX i v).pc = s.pc := by
  rw [setX_eq _ _ _ h, pc_writeSlot, if_neg]; rwa [eq_comm, slot_eq_pcSlot]

/-- R30: the program counter after any register write. -/
theorem setX_pc_cases : (s.setX i v).pc = if i = 15#4 then alignPc s.cpsr.t v else s.pc := by
  by_cases h : i = 15#4 <;> simp [h, setX_pc]

@[simp] theorem setXu_cpsr : (s.setXu i v).cpsr = s.cpsr := by simp [State.setXu]
@[simp] theorem setXu_mem : (s.setXu i v).mem = s.mem := by simp [State.setXu]
@[simp] theorem setXu_bus : (s.setXu i v).bus = s.bus := by simp [State.setXu]
@[simp] theorem setXu_free : (s.setXu i v).free = s.free := by simp [State.setXu]
@[simp] theorem setXu_spsrOf (m : Mode) : (s.setXu i v).spsrOf m = s.spsrOf m := by simp [State.setXu]
theorem setXu_pc (h : i ≠ 15#4) : (s.setXu i v).pc = s.pc := by
  rw [State.setXu, pc_writeSlot, if_neg]; rwa [eq_comm, slot_eq_pcSlot]

end SetX

/-! ## `withCpsr`, `setSpsrOf`, `tick` -/

section Status
variable (s : State) (p : Psr)

@[simp] theorem withCpsr_cpsr : (s.withCpsr p).cpsr = p := rfl
@[simp] theorem withCpsr_mem : (s.withCpsr p).mem = s.mem := rfl
@[simp] theorem withCpsr_bus : (s.withCpsr p).bus = s.bus := rfl
@[simp] theorem withCpsr_free : (s.withCpsr p).free = s.free := rfl
@[simp] theorem withCpsr_readSlot (σ : Slot) : (s.withCpsr p).readSlot σ = s.readSlot σ := by cases σ <;> rfl
@[simp] theorem withCpsr_pc : (s.withCpsr p).pc = s.pc := by simp [State.pc]
@[simp] theorem withCpsr_spsrOf (m : Mode) : (s.withCpsr p).spsrOf m = s.spsrOf m := rfl

variable (m : Mode)

@[simp] theorem setSpsrOf_cpsr : (s.setSpsrOf m p).cpsr = s.cpsr := by cases m <;> rfl
@[simp] theorem setSpsrOf_mem : (s.setSpsrOf m p).mem = s.mem := by cases m <;> rfl
@[simp] theorem setSpsrOf_bus : (s.setSpsrOf m p).bus = s.bus := by cases m <;> rfl
@[simp] theorem setSpsrOf_free : (s.setSpsrOf m p).free = s.free := by cases m <;> rfl
@[simp] theorem setSpsrOf_readSlot (σ : Slot) : (s.setSpsrOf m p).readSlot σ = s.readSlot σ := by
  cases m <;> cases σ <;> rfl
@[simp] theorem setSpsrOf_pc : (s.setSpsrOf m p).pc = s.pc := by simp [State.pc]

theorem setSpsrOf_other (k : Mode) (h : k ≠ m) : (s.setSpsrOf m p).spsrOf k = s.spsrOf k := by
  cases m <;> cases k <;> first | rfl | exact absurd rfl h

theorem setSpsrOf_same (h : (s.spsrOf m).isSome) : (s.setSpsrOf m p).spsrOf m = some p := by
  cases m <;> first | rfl | simp [State.spsrOf] at h

@[simp] theorem tick_readSlot (σ : Slot) : s.tick.readSlot σ = s.readSlot σ := by cases σ <;> rfl
@[simp] theorem tick_pc : s.tick.pc = s.pc := by simp [State.pc]
@[simp] theorem tick_cpsr : s.tick.cpsr = s.cpsr := rfl
@[simp] theorem tick_mem : s.tick.mem = s.mem := rfl
@[simp] theorem tick_bus : s.tick.bus = s.bus := rfl
@[simp] theorem tick_spsrOf : s.tick.spsrOf m = s.spsrOf m := rfl
@[simp] theorem tick_free : s.tick.free = s.free + 1 := rfl

end Status

/-- R37: the modes that have a saved status word are the privileged ones but System. -/
theorem spsrOf_isSome (s : State) (m : Mode) : (s.spsrOf m).isSome = (m != .usr && m != .sys) := by
  cases m <;> rfl

/-! ## Register reads after updates -/

/-- R29: a read of a register other than r15 is its slot. -/
theorem reg_eq (s : State) (i : Reg) (o : Word) (h : i ≠ 15#4) : s.reg i o = s.readSlot (slot s.cpsr.mode i) := by
  simp [State.reg, h]

/-- R29: r15 reads the instruction's address plus the offset. -/
@[simp] theorem reg_pc (s : State) (o : Word) : s.reg 15#4 o = s.pc + o := by simp [State.reg]

@[simp] theorem x_pc (s : State) : s.x 15#4 = s.pc + 8 := by simp [State.x, Config.pcReadWide]

@[simp] theorem xc_pc (s : State) : s.xc 15#4 = s.pc + 4 := by simp [State.xc, Config.pcReadCompressed]

theorem x_eq (s : State) (i : Reg) (h : i ≠ 15#4) : s.x i = s.readSlot (slot s.cpsr.mode i) := reg_eq s i _ h

theorem xc_eq (s : State) (i : Reg) (h : i ≠ 15#4) : s.xc i = s.readSlot (slot s.cpsr.mode i) := reg_eq s i _ h

/-- A low register reads the same in both encodings. -/
theorem xc_lowReg (s : State) (r : LowReg) : s.xc (lowReg r) = s.x (lowReg r) := by
  rw [xc_eq _ _ (lowReg_ne_pc r), x_eq _ _ (lowReg_ne_pc r)]

end Sys2Proof.Machine
end

