-- ==== Sys2Proof/Laws/Memory.lean ====
section
/-! SUPPORT. Memory: the canonical form every operation keeps, read after write, and what a store leaves alone. -/

namespace Sys2Proof.Machine

/-! ## The canonical list -/

namespace Memory

theorem wfFrom_mono {lo lo' : Nat} (h : lo ≤ lo') (m : Memory) (hw : Memory.wfFrom lo' m = true) :
    Memory.wfFrom lo m = true := by
  cases m with
  | nil => rfl
  | cons e m =>
    obtain ⟨k, v⟩ := e
    simp only [Memory.wfFrom, Bool.and_eq_true, decide_eq_true_eq] at *
    exact ⟨⟨⟨by omega, hw.1.1.2⟩, hw.1.2⟩, hw.2⟩

/-- Below the lower bound nothing is listed. -/
theorem read_below {lo a : Nat} (m : Memory) (hw : Memory.wfFrom lo m = true) (h : a < lo) :
    Memory.read m a = Config.unlistedByte := by
  induction m generalizing lo with
  | nil => rfl
  | cons e m ih =>
    obtain ⟨k, v⟩ := e
    simp only [Memory.wfFrom, Bool.and_eq_true, decide_eq_true_eq] at hw
    rw [Memory.read, if_neg (by omega)]
    exact ih hw.2 (by omega)

/-- A write keeps the canonical form. -/
theorem wfFrom_write {lo a : Nat} (m : Memory) (v : Byte) (hw : Memory.wfFrom lo m = true) (hlo : lo ≤ a)
    (ha : a < 2 ^ 32) : Memory.wfFrom lo (Memory.write m a v) = true := by
  induction m generalizing lo with
  | nil =>
    unfold Memory.write; split
    · rfl
    · simp_all [Memory.wfFrom]
  | cons e m ih =>
    obtain ⟨k, u⟩ := e
    simp only [Memory.wfFrom, Bool.and_eq_true, decide_eq_true_eq, bne_iff_ne, ne_eq] at hw
    obtain ⟨⟨⟨h1, h2⟩, h3⟩, h4⟩ := hw
    unfold Memory.write
    split
    · split <;> simp [Memory.wfFrom, *] <;> omega
    · split
      · split
        · exact wfFrom_mono (by omega) _ h4
        · rename_i _ he hv
          subst he
          simp only [Memory.wfFrom, Bool.and_eq_true, decide_eq_true_eq, bne_iff_ne, ne_eq]
          exact ⟨⟨⟨hlo, ha⟩, hv⟩, h4⟩
      · have := ih h4 (by omega)
        simp only [Memory.wfFrom, Bool.and_eq_true, decide_eq_true_eq, bne_iff_ne, ne_eq]
        exact ⟨⟨⟨h1, h2⟩, h3⟩, this⟩

/-- Every memory operation keeps the canonical form. -/
theorem wf_write (m : Memory) (a : Word) (v : Byte) (hw : m.wf = true) : (Memory.write m a.toNat v).wf = true :=
  wfFrom_write m v hw (Nat.zero_le _) a.isLt

/-- Read after write, at the address written. -/
theorem read_write_same {lo a : Nat} (m : Memory) (v : Byte) (hw : Memory.wfFrom lo m = true) :
    Memory.read (Memory.write m a v) a = v := by
  induction m generalizing lo with
  | nil => unfold Memory.write; split <;> simp_all [Memory.read]
  | cons e m ih =>
    obtain ⟨k, u⟩ := e
    have hw' := hw
    simp only [Memory.wfFrom, Bool.and_eq_true, decide_eq_true_eq] at hw
    unfold Memory.write
    split
    · split
      · rename_i h1 h2
        rw [Memory.read, if_neg (by omega), h2]
        exact read_below m hw.2 (by omega)
      · simp [Memory.read]
    · split
      · split
        · rename_i h1 h2 h3
          rw [h3]; exact read_below m hw.2 (by omega)
        · simp [Memory.read]
      · rw [Memory.read, if_neg (by omega)]
        exact ih hw.2

/-- Read after write, anywhere else; this needs no canonical form. -/
theorem read_write_other {a b : Nat} (m : Memory) (v : Byte) (h : b ≠ a) :
    Memory.read (Memory.write m a v) b = Memory.read m b := by
  induction m with
  | nil => unfold Memory.write; split <;> simp [Memory.read, Ne.symm h]
  | cons e m ih =>
    obtain ⟨k, u⟩ := e
    unfold Memory.write
    split
    · split <;> simp [Memory.read, Ne.symm h]
    · split
      · subst_vars
        split <;> simp [Memory.read, Ne.symm h]
      · simp [Memory.read, ih]

end Memory

/-! ## Byte stores -/

section Store8
variable (s : State) (a : Word) (v : Byte)

@[simp] theorem store8_readSlot (σ : Slot) : (s.store8 a v).readSlot σ = s.readSlot σ := by
  unfold State.store8; split <;> cases σ <;> rfl
@[simp] theorem store8_cpsr : (s.store8 a v).cpsr = s.cpsr := by unfold State.store8; split <;> rfl
@[simp] theorem store8_bus : (s.store8 a v).bus = s.bus := by unfold State.store8; split <;> rfl
@[simp] theorem store8_free : (s.store8 a v).free = s.free := by unfold State.store8; split <;> rfl
@[simp] theorem store8_spsrOf (m : Mode) : (s.store8 a v).spsrOf m = s.spsrOf m := by
  unfold State.store8; split <;> rfl

theorem store8_wf (h : s.mem.wf = true) : (s.store8 a v).mem.wf = true := by
  unfold State.store8; split
  · exact Memory.wf_write _ _ _ h
  all_goals exact h

/-- A byte store leaves every other address alone. -/
theorem load8_store8_other {b : Word} (h : b ≠ a) : (s.store8 a v).load8 b = s.load8 b := by
  have hn : b.toNat ≠ a.toNat := fun hh => h (BitVec.eq_of_toNat_eq hh)
  unfold State.store8; split <;> simp [State.load8, Memory.read_write_other _ _ hn]

/-- A byte stored to plain memory reads back. -/
theorem load8_store8_same (hw : s.mem.wf = true) (hk : kindAt s.bus a = .ram) : (s.store8 a v).load8 a = v := by
  have := Memory.read_write_same (lo := 0) (a := a.toNat) s.mem v hw
  simp [State.store8, State.load8, hk, this]

/-- R71 (b), R421: a store outside plain memory changes nothing. -/
theorem store8_eq_self (hk : kindAt s.bus a ≠ .ram) : s.store8 a v = s := by
  unfold State.store8; split <;> simp_all

end Store8

/-! ## Stores of several bytes -/

section StoreBytes
variable (l : List Byte)

@[simp] theorem storeBytes_readSlot (s : State) (a : Word) (σ : Slot) :
    (s.storeBytes a l).readSlot σ = s.readSlot σ := by
  induction l generalizing s a <;> simp [State.storeBytes, *]
@[simp] theorem storeBytes_cpsr (s : State) (a : Word) : (s.storeBytes a l).cpsr = s.cpsr := by
  induction l generalizing s a <;> simp [State.storeBytes, *]
@[simp] theorem storeBytes_bus (s : State) (a : Word) : (s.storeBytes a l).bus = s.bus := by
  induction l generalizing s a <;> simp [State.storeBytes, *]
@[simp] theorem storeBytes_free (s : State) (a : Word) : (s.storeBytes a l).free = s.free := by
  induction l generalizing s a <;> simp [State.storeBytes, *]
@[simp] theorem storeBytes_spsrOf (s : State) (a : Word) (m : Mode) :
    (s.storeBytes a l).spsrOf m = s.spsrOf m := by
  induction l generalizing s a <;> simp [State.storeBytes, *]
theorem storeBytes_wf (s : State) (a : Word) (h : s.mem.wf = true) : (s.storeBytes a l).mem.wf = true := by
  induction l generalizing s a with
  | nil => exact h
  | cons v l ih => exact ih _ _ (store8_wf s a v h)

/-- A store leaves every address outside its span alone. -/
theorem load8_storeBytes_other (s : State) (a b : Word) (h : b ∉ span a l.length) :
    (s.storeBytes a l).load8 b = s.load8 b := by
  induction l generalizing s a with
  | nil => rfl
  | cons v l ih =>
    simp only [List.length_cons, span, List.mem_cons, not_or] at h
    rw [State.storeBytes, ih _ _ h.2, load8_store8_other _ _ _ h.1]

end StoreBytes

/-- The address `k + 1` bytes on is `k` bytes on from the next address. -/
theorem add_ofNat_succ (a : Word) (k : Nat) : a + BitVec.ofNat 32 (k + 1) = a + 1 + BitVec.ofNat 32 k := by
  apply BitVec.eq_of_toNat_eq; simp; omega

theorem mem_span (a b : Word) (n : Nat) : b ∈ span a n ↔ ∃ k, k < n ∧ b = a + BitVec.ofNat 32 k := by
  induction n generalizing a with
  | zero => simp [span]
  | succ n ih =>
    simp only [span, List.mem_cons, ih]
    constructor
    · rintro (rfl | ⟨k, hk, rfl⟩)
      · exact ⟨0, by omega, by simp⟩
      · exact ⟨k + 1, by omega, (add_ofNat_succ a k).symm⟩
    · rintro ⟨k, hk, rfl⟩
      cases k with
      | zero => simp
      | succ k =>
        exact .inr ⟨k, by omega, add_ofNat_succ a k⟩

/-- The bytes of a store, one by one, where nothing wraps onto an earlier byte. -/
theorem load8_storeBytes_at (s : State) (a : Word) (l : List Byte) (k : Nat) (hk : k < l.length)
    (hl : l.length ≤ 2 ^ 32) (hw : s.mem.wf = true) (hp : s.plain (span a l.length)) :
    (s.storeBytes a l).load8 (a + BitVec.ofNat 32 k) = l[k] := by
  induction l generalizing s a k with
  | nil => simp at hk
  | cons v l ih =>
    simp only [List.length_cons] at hk hl
    have hp' : (s.store8 a v).plain (span (a + 1) l.length) := fun b hb => by
      rw [store8_bus]; exact hp b (List.mem_cons_of_mem _ hb)
    cases k with
    | zero =>
      have hnot : a ∉ span (a + 1) l.length := by
        rw [mem_span]; rintro ⟨j, hj, he⟩
        have := congrArg BitVec.toNat he
        simp at this
        omega
      rw [State.storeBytes, BitVec.add_zero, load8_storeBytes_other _ _ _ _ hnot, List.getElem_cons_zero]
      exact load8_store8_same s a v hw (hp a (by simp [span]))
    | succ k =>
      have := ih (s.store8 a v) (a + 1) k (by omega) (by omega) (store8_wf s a v hw) hp'
      rw [State.storeBytes, List.getElem_cons_succ, add_ofNat_succ]
      exact this

/-! ## `memWrite` -/

/-- The bytes `MemWrite` stores, lowest address first (R64). -/
def Size.split (sz : Size) (v : Word) : List Byte :=
  match sz with
  | .byte => [bits v 7 0]
  | .half => splitHalf (bits v 15 0)
  | .word => splitWord v

@[simp] theorem Size.length_split (sz : Size) (v : Word) : (sz.split v).length = sz.bytes := by cases sz <;> rfl

theorem memWrite_eq (s : State) (a : Word) (sz : Size) (v : Word) :
    s.memWrite a sz v = s.storeBytes a (sz.split v) := by
  cases sz <;> rfl

section MemWrite
variable (s : State) (a : Word) (sz : Size) (v : Word)

@[simp] theorem memWrite_readSlot (σ : Slot) : (s.memWrite a sz v).readSlot σ = s.readSlot σ := by simp [memWrite_eq]
@[simp] theorem memWrite_pc : (s.memWrite a sz v).pc = s.pc := by simp [State.pc]
@[simp] theorem memWrite_cpsr : (s.memWrite a sz v).cpsr = s.cpsr := by simp [memWrite_eq]
@[simp] theorem memWrite_bus : (s.memWrite a sz v).bus = s.bus := by simp [memWrite_eq]
@[simp] theorem memWrite_free : (s.memWrite a sz v).free = s.free := by simp [memWrite_eq]
@[simp] theorem memWrite_spsrOf (m : Mode) : (s.memWrite a sz v).spsrOf m = s.spsrOf m := by simp [memWrite_eq]

theorem memWrite_wf (h : s.mem.wf = true) : (s.memWrite a sz v).mem.wf = true := by
  rw [memWrite_eq]; exact storeBytes_wf _ _ _ h

theorem load8_memWrite_other {b : Word} (h : b ∉ span a sz.bytes) : (s.memWrite a sz v).load8 b = s.load8 b := by
  rw [memWrite_eq]; exact load8_storeBytes_other _ _ _ _ (by simpa using h)

end MemWrite

/-! ## Loads depend on memory, bus and free index only -/

theorem load8_congr {s t : State} (hm : t.mem = s.mem) (hb : t.bus = s.bus) (hf : t.free = s.free) (a : Word) :
    t.load8 a = s.load8 a := by simp [State.load8, hm, hb, hf]

theorem load16_congr {s t : State} (h : ∀ a, t.load8 a = s.load8 a) (a : Word) : t.load16 a = s.load16 a := by
  simp [State.load16, h]

theorem load32_congr {s t : State} (h : ∀ a, t.load8 a = s.load8 a) (a : Word) : t.load32 a = s.load32 a := by
  simp [State.load32, load16_congr h]

@[simp] theorem load8_writeSlot (s : State) (σ : Slot) (v : Word) (a : Word) :
    (s.writeSlot σ v).load8 a = s.load8 a := load8_congr (by simp) (by simp) (by simp) a
@[simp] theorem load8_setPc (s : State) (v a : Word) : (s.setPc v).load8 a = s.load8 a :=
  load8_congr (by simp) (by simp) (by simp) a
@[simp] theorem load8_branchTo (s : State) (v a : Word) : (s.branchTo v).load8 a = s.load8 a :=
  load8_congr (by simp) (by simp) (by simp) a
@[simp] theorem load8_advance (s : State) (v a : Word) : (s.advance v).load8 a = s.load8 a :=
  load8_congr (by simp) (by simp) (by simp) a
@[simp] theorem load8_setX (s : State) (i : Reg) (v a : Word) : (s.setX i v).load8 a = s.load8 a :=
  load8_congr (by simp) (by simp) (by simp) a
@[simp] theorem load8_setXu (s : State) (i : Reg) (v a : Word) : (s.setXu i v).load8 a = s.load8 a :=
  load8_congr (by simp) (by simp) (by simp) a
@[simp] theorem load8_withCpsr (s : State) (p : Psr) (a : Word) : (s.withCpsr p).load8 a = s.load8 a := rfl
@[simp] theorem load8_setSpsrOf (s : State) (m : Mode) (p : Psr) (a : Word) :
    (s.setSpsrOf m p).load8 a = s.load8 a := load8_congr (by simp) (by simp) (by simp) a

end Sys2Proof.Machine
end

