-- ==== Sys2Proof/Laws/Ops.lean ====
section
/-! SUPPORT. What each shared operation does, said once: the frame algebra, the condition gate, the ALU frame, exceptions
and returns, exchange, status-word merges, transfers, swaps and multiplies. -/

namespace Sys2Proof.Machine

/-! ## The frame algebra -/

theorem Frame.refl (s : State) : Frame s s [] [] [] := ⟨fun _ _ _ => rfl, fun _ _ => rfl, fun _ _ => rfl, rfl⟩

theorem Frame.trans {s t u : State} {r r' : List Slot} {m m' : List Mode} {a a' : List Word}
    (h : Frame s t r m a) (h' : Frame t u r' m' a') : Frame s u (r ++ r') (m ++ m') (a ++ a') := by
  obtain ⟨h1, h2, h3, h4⟩ := h
  obtain ⟨k1, k2, k3, k4⟩ := h'
  refine ⟨fun σ hσ hp => ?_, fun k hk => ?_, fun b hb => ?_, k4.trans h4⟩
  · rw [List.mem_append, not_or] at hσ; rw [k1 σ hσ.2 hp, h1 σ hσ.1 hp]
  · rw [List.mem_append, not_or] at hk; rw [k2 k hk.2, h2 k hk.1]
  · rw [List.mem_append, not_or] at hb; rw [k3 b hb.2, h3 b hb.1]

/-- A frame may name more than what changes. -/
theorem Frame.mono {s t : State} {r r' : List Slot} {m m' : List Mode} {a a' : List Word} (h : Frame s t r m a)
    (hr : ∀ σ ∈ r, σ ∈ r' ∨ σ = pcSlot) (hm : m ⊆ m') (ha : a ⊆ a') : Frame s t r' m' a' :=
  ⟨fun σ hσ hp => h.1 σ (fun hc => (hr σ hc).elim hσ hp) hp, fun k hk => h.2.1 k (fun hc => hk (hm hc)),
    fun b hb => h.2.2.1 b (fun hc => hb (ha hc)), h.2.2.2⟩

section Steps
variable (s : State)

theorem frame_setPc (v : Word) : Frame s (s.setPc v) [] [] [] :=
  ⟨fun _ _ hp => setPc_readSlot _ _ hp, fun _ _ => by simp, fun _ _ => by simp, by simp⟩

theorem frame_branchTo (v : Word) : Frame s (s.branchTo v) [] [] [] := frame_setPc _ _

theorem frame_advance (w : Word) : Frame s (s.advance w) [] [] [] := frame_setPc _ _

theorem frame_withCpsr (p : Psr) : Frame s (s.withCpsr p) [] [] [] :=
  ⟨fun _ _ _ => by simp, fun _ _ => by simp, fun _ _ => by simp, by simp⟩

theorem frame_writeSlot (σ : Slot) (v : Word) : Frame s (s.writeSlot σ v) [σ] [] [] :=
  ⟨fun τ h _ => readSlot_writeSlot_other _ _ _ _ (by simpa using h), fun _ _ => by simp, fun _ _ => by simp, by simp⟩

theorem frame_setX (i : Reg) (v : Word) : Frame s (s.setX i v) [s.here i] [] [] :=
  ⟨fun _ h hp => setX_readSlot _ _ _ (by simpa [State.here] using h) hp, fun _ _ => by simp, fun _ _ => by simp, by simp⟩

theorem frame_setSpsrOf (m : Mode) (p : Psr) : Frame s (s.setSpsrOf m p) [] [m] [] :=
  ⟨fun _ _ _ => by simp, fun k hk => setSpsrOf_other _ _ _ _ (by simpa using hk), fun _ _ => by simp, by simp⟩

theorem frame_memWrite (a : Word) (sz : Size) (v : Word) : Frame s (s.memWrite a sz v) [] [] (span a sz.bytes) :=
  ⟨fun _ _ _ => by simp, fun _ _ => by simp, fun _ hb => load8_memWrite_other _ _ _ _ hb, by simp⟩

theorem frame_writeBase (wb : Bool) (rn : Reg) (v : Word) :
    Frame s (s.writeBase wb rn v) (if wb then [s.here rn] else []) [] [] := by
  cases wb
  · exact Frame.refl s
  · exact frame_setX s rn v

end Steps

@[simp] theorem here_advance (s : State) (w : Word) (i : Reg) : (s.advance w).here i = s.here i := by
  simp [State.here]
@[simp] theorem here_memWrite (s : State) (a : Word) (sz : Size) (v : Word) (i : Reg) :
    (s.memWrite a sz v).here i = s.here i := by simp [State.here]
@[simp] theorem here_setX (s : State) (j : Reg) (v : Word) (i : Reg) : (s.setX j v).here i = s.here i := by
  simp [State.here]

theorem here_inj (s : State) (i j : Reg) : s.here i = s.here j ↔ i = j := slot_inj _ _ _
@[simp] theorem here_eq_pcSlot (s : State) (i : Reg) : s.here i = pcSlot ↔ i = 15#4 := slot_eq_pcSlot _ _
@[simp] theorem here_pc (s : State) : s.here 15#4 = pcSlot := slot_pc _

/-! ## The condition gate (R12, R170) -/

theorem whenPassed_true {cond : Cond} {s : State} (h : conditionPassed cond s.cpsr = true) (body : Result) :
    whenPassed cond s body = body := by simp [whenPassed, h]

theorem whenPassed_false {cond : Cond} {s : State} (h : conditionPassed cond s.cpsr = false) (body : Result) :
    whenPassed cond s body = .next (s.advance 4) := by simp [whenPassed, h]

/-! ## `writeBase` (R240) -/

section WriteBase
variable (s : State) (wb : Bool) (rn : Reg) (v : Word)

@[simp] theorem writeBase_cpsr : (s.writeBase wb rn v).cpsr = s.cpsr := by cases wb <;> simp [State.writeBase]
@[simp] theorem writeBase_bus : (s.writeBase wb rn v).bus = s.bus := by cases wb <;> simp [State.writeBase]
@[simp] theorem writeBase_free : (s.writeBase wb rn v).free = s.free := by cases wb <;> simp [State.writeBase]
@[simp] theorem writeBase_mem : (s.writeBase wb rn v).mem = s.mem := by cases wb <;> simp [State.writeBase]
@[simp] theorem here_writeBase (i : Reg) : (s.writeBase wb rn v).here i = s.here i := by simp [State.here]
@[simp] theorem load8_writeBase (a : Word) : (s.writeBase wb rn v).load8 a = s.load8 a :=
  load8_congr (by simp) (by simp) (by simp) a

theorem writeBase_pc (h : wb = true → rn ≠ 15#4) : (s.writeBase wb rn v).pc = s.pc := by
  cases wb
  · rfl
  · exact setX_pc _ _ _ (h rfl)

theorem writeBase_readSlot (h : wb = true) (hn : rn ≠ 15#4) : (s.writeBase wb rn v).readSlot (s.here rn) = v := by
  subst h; exact setX_readSlot_same _ _ _ hn

end WriteBase

/-! ## The ALU frame (R180) -/

/-- Everything `aluCommit` does, for every destination but r15 (or for a discarded result). -/
theorem aluCommit_spec (w : Word) (sf writes : Bool) (rd : Reg) (out : AluOut) (sc : Bool) (s : State)
    (h : writes = true → rd ≠ 15#4) :
    (writes = true → (aluCommit w sf writes rd out sc s).readSlot (s.here rd) = out.result) ∧
    (aluCommit w sf writes rd out sc s).cpsr = (if sf then s.cpsr.setAlu out sc else s.cpsr) ∧
    (aluCommit w sf writes rd out sc s).pc = s.pc + w ∧
    Frame s (aluCommit w sf writes rd out sc s) (if writes then [s.here rd] else []) [] [] := by
  have hm : (s.cpsr.setAlu out sc).mode = s.cpsr.mode := by cases out <;> rfl
  have hf : Frame s ((s.advance w).withCpsr (s.cpsr.setAlu out sc)) [] [] [] :=
    (frame_advance s w).trans (frame_withCpsr _ _)
  cases writes <;> cases sf
  · simp [aluCommit, frame_advance]
  · simpa [aluCommit] using hf
  · have h := h rfl
    have := (frame_advance s w).trans (frame_setX (s.advance w) rd out.result)
    refine ⟨fun _ => ?_, by simp [aluCommit], by simp [aluCommit, setX_pc, h], by simpa [aluCommit] using this⟩
    simpa [aluCommit, State.here] using setX_readSlot_same (s.advance w) rd out.result h
  · have h := h rfl
    have hs : ((s.advance w).withCpsr (s.cpsr.setAlu out sc)).here rd = s.here rd := by simp [State.here, hm]
    have := hf.trans (frame_setX _ rd out.result)
    rw [hs] at this
    refine ⟨fun _ => ?_, by simp [aluCommit], by simp [aluCommit, setX_pc, h], by simpa [aluCommit] using this⟩
    rw [← hs]
    simpa [aluCommit, State.here] using
      setX_readSlot_same ((s.advance w).withCpsr (s.cpsr.setAlu out sc)) rd out.result h

/-- With r15 as the destination and S clear it is a branch (R181). -/
theorem aluCommit_pc (w : Word) (out : AluOut) (sc : Bool) (s : State) :
    (aluCommit w false true 15#4 out sc s).cpsr = s.cpsr ∧
    (aluCommit w false true 15#4 out sc s).pc = alignPc s.cpsr.t out.result ∧
    Frame s (aluCommit w false true 15#4 out sc s) [] [] [] := by
  have := (frame_advance s w).trans (frame_branchTo (s.advance w) out.result)
  simpa [aluCommit] using this

/-! ## Exceptions and returns (R424, R430, R282) -/

/-- Everything taking an exception does, for a mode that has an SPSR and a private r14. -/
theorem takeException_spec (s : State) (m : Mode) (vec w : Word) (hm : (s.spsrOf m).isSome) :
    (s.takeException m vec w).spsrOf m = some s.cpsr ∧
    (s.takeException m vec w).readSlot (slot m 14#4) = s.pc + w ∧
    (s.takeException m vec w).cpsr = { s.cpsr with mode := m, t := false, irqOff := true } ∧
    (s.takeException m vec w).pc = alignPc false vec ∧
    Frame s (s.takeException m vec w) [slot m 14#4] [m] [] := by
  have h14 : slot m 14#4 ≠ pcSlot := by simp
  refine ⟨?_, ?_, ?_, ?_, ?_⟩
  · simp only [State.takeException, branchTo_spsrOf, withCpsr_spsrOf, setX_spsrOf]
    exact setSpsrOf_same _ _ _ (by simpa using hm)
  · rw [State.takeException, branchTo_readSlot _ _ h14, withCpsr_readSlot]
    have := setX_readSlot_same ((s.withCpsr { s.cpsr with mode := m }).setSpsrOf m s.cpsr) 14#4 (s.pc + w) (by decide)
    simpa using this
  · simp [State.takeException]
  · simp [State.takeException]
  · have := ((((frame_withCpsr s { s.cpsr with mode := m }).trans (frame_setSpsrOf _ m s.cpsr)).trans
      (frame_setX _ 14#4 (s.pc + w))).trans (frame_withCpsr _ { s.cpsr with mode := m, t := false, irqOff := true })).trans
      (frame_branchTo _ vec)
    simpa [State.takeException, State.here] using this

/-- R430: `CPSR <- p; pc <- target` aligned by the restored T; nothing else. -/
theorem restore_spec (s : State) (p : Psr) (v : Word) :
    (s.restore p v).cpsr = p ∧ (s.restore p v).pc = alignPc p.t v ∧ Frame s (s.restore p v) [] [] [] :=
  ⟨by simp [State.restore], by simp [State.restore],
    by simpa [State.restore] using (frame_withCpsr s p).trans (frame_branchTo _ v)⟩

theorem exceptionReturn_some (s : State) (v : Word) {p : Psr} (h : s.spsrOf s.cpsr.mode = some p) :
    s.exceptionReturn v = .next (s.restore p v) := by simp [State.exceptionReturn, State.spsr, h]

theorem exceptionReturn_none (s : State) (v : Word) (h : s.cpsr.mode = .usr ∨ s.cpsr.mode = .sys) :
    s.exceptionReturn v = .refused .noSpsr := by
  rcases h with h | h <;> simp [State.exceptionReturn, State.spsr, h, State.spsrOf]

/-- R282, R333. -/
theorem exchange_spec (s : State) (v : Word) :
    (s.exchange v).cpsr = { s.cpsr with t := bit v 0 } ∧ (s.exchange v).pc = alignPc (bit v 0) v ∧
    Frame s (s.exchange v) [] [] [] :=
  ⟨by simp [State.exchange], by simp [State.exchange],
    by simpa [State.exchange] using (frame_withCpsr s { s.cpsr with t := bit v 0 }).trans (frame_branchTo _ v)⟩

/-! ## Register results -/

/-- A register written after the advance: what every load, MRS and flagless operation ends in. -/
theorem advance_setX_spec (s : State) (w : Word) (i : Reg) (v : Word) :
    (i ≠ 15#4 → ((s.advance w).setX i v).readSlot (s.here i) = v ∧ ((s.advance w).setX i v).pc = s.pc + w) ∧
    (i = 15#4 → ((s.advance w).setX i v).pc = alignPc s.cpsr.t v) ∧
    ((s.advance w).setX i v).cpsr = s.cpsr ∧ Frame s ((s.advance w).setX i v) [s.here i] [] [] := by
  have hf := (frame_advance s w).trans (frame_setX (s.advance w) i v)
  rw [here_advance] at hf
  refine ⟨fun h => ⟨?_, by simp [setX_pc, h]⟩, fun h => by simp [h], by simp, by simpa using hf⟩
  simpa [State.here] using setX_readSlot_same (s.advance w) i v h

/-! ## Transfers (R240 to R254) -/

/-- R240: which addressing modes write the base back. -/
theorem writesBack_iff (p w : Bool) : writesBack p w = true ↔ p = false ∨ w = true := by
  cases p <;> cases w <;> decide

theorem transferGuard_ok {o : Offset} {p w : Bool} {rn : Reg} (ho : offsetIsPc o = false)
    (hn : writesBack p w = true → rn ≠ 15#4) (body : Result) : transferGuard o p w rn body = body := by
  have : (writesBack p w && rn == 15#4) = false := by
    cases hw : writesBack p w <;> simp [hw] at hn ⊢; exact hn
  simp [transferGuard, ho, this]

/-- The state a load leaves: write-back first, the loaded value last. -/
theorem load_state_spec (s : State) (wb : Bool) (rn rd : Reg) (target v : Word) (hn : wb = true → rn ≠ 15#4) :
    let t := ((s.advance 4).writeBase wb rn target).setX rd v
    (rd ≠ 15#4 → t.readSlot (s.here rd) = v ∧ t.pc = s.pc + 4) ∧
    (rd = 15#4 → t.pc = alignPc s.cpsr.t v) ∧
    (wb = true → rn ≠ rd → t.readSlot (s.here rn) = target) ∧
    t.cpsr = s.cpsr ∧
    Frame s t (if wb then [s.here rd, s.here rn] else [s.here rd]) [] [] := by
  have hp := writeBase_pc (s.advance 4) wb rn target hn
  refine ⟨fun h => ⟨?_, ?_⟩, fun h => ?_, fun h hne => ?_, ?_, ?_⟩
  · simpa [State.here] using setX_readSlot_same ((s.advance 4).writeBase wb rn target) rd v h
  · rw [setX_pc _ _ _ h, hp]; simp
  · subst h; simp
  · rw [setX_readSlot]
    · simpa using writeBase_readSlot (s.advance 4) wb rn target h (hn h)
    · simpa [State.here, slot_inj] using hne
    · simpa using hn h
  · simp
  · have := ((frame_advance s 4).trans (frame_writeBase _ wb rn target)).trans (frame_setX _ rd v)
    refine this.mono ?_ (by simp) (by simp)
    cases wb <;> simp

/-- The state a store leaves: the bytes, then write-back. -/
theorem store_state_spec (s : State) (wb : Bool) (rn : Reg) (sz : Size) (a v target : Word)
    (hn : wb = true → rn ≠ 15#4) :
    let t := ((s.advance 4).memWrite a sz v).writeBase wb rn target
    (wb = true → t.readSlot (s.here rn) = target) ∧
    t.cpsr = s.cpsr ∧ t.pc = s.pc + 4 ∧ (∀ b, t.load8 b = ((s.advance 4).memWrite a sz v).load8 b) ∧
    Frame s t (if wb then [s.here rn] else []) [] (span a sz.bytes) := by
  refine ⟨fun h => ?_, by simp, ?_, by simp, ?_⟩
  · simpa using writeBase_readSlot ((s.advance 4).memWrite a sz v) wb rn target h (hn h)
  · rw [writeBase_pc _ _ _ _ hn]; simp
  · have := ((frame_advance s 4).trans (frame_memWrite _ a sz v)).trans (frame_writeBase _ wb rn target)
    simpa using this

/-! ## Multiplies (R218) -/

theorem setMul_mode (p : Psr) (r : Word) (f : Nat) : (p.setMul r f).mode = p.mode := rfl
theorem setMulLong_mode (p : Psr) (r : BitVec 64) (f : Nat) : (p.setMulLong r f).mode = p.mode := rfl

/-- Everything a 32-bit multiply does when r15 is not named. -/
theorem multiplyShort_spec {cond : Cond} (sf : Bool) (regs : List Reg) (rd : Reg) (r : Word) (s : State)
    (hc : conditionPassed cond s.cpsr = true) (hr : namesPc regs = false) (hd : rd ≠ 15#4) :
    ∃ t, multiplyShort cond sf regs rd r s = .next t ∧ t.readSlot (s.here rd) = r ∧
      t.cpsr = (if sf then s.cpsr.setMul r s.free else s.cpsr) ∧ t.pc = s.pc + 4 ∧ Frame s t [s.here rd] [] [] := by
  refine ⟨_, by rw [multiplyShort, whenPassed_true hc, hr]; rfl, ?_⟩
  have hs : ((s.advance 4).withCpsr (s.cpsr.setMul r s.free)).here rd = s.here rd := by
    simp [State.here, setMul_mode]
  cases sf
  · obtain ⟨h1, -, h3, h4⟩ := advance_setX_spec s 4 rd r
    exact ⟨(h1 hd).1, h3, (h1 hd).2, h4⟩
  · have hf := ((frame_advance s 4).trans (frame_withCpsr _ (s.cpsr.setMul r s.free))).trans (frame_setX _ rd r)
    have h1 := setX_readSlot_same ((s.advance 4).withCpsr (s.cpsr.setMul r s.free)) rd r hd
    rw [hs] at hf
    exact ⟨by simpa [State.here, setMul_mode] using h1, by simp, by simp [setX_pc, hd], by simpa using hf⟩

/-- Everything a long multiply does when r15 is not named; where both halves go to one register the high one stays. -/
theorem multiplyLong_spec {cond : Cond} (sf : Bool) (rd rn rs rm : Reg) (r : BitVec 64) (s : State)
    (hc : conditionPassed cond s.cpsr = true) (hr : namesPc [rd, rn, rs, rm] = false) (hd : rd ≠ 15#4)
    (hn : rn ≠ 15#4) :
    ∃ t, multiplyLong cond sf rd rn rs rm r s = .next t ∧ t.readSlot (s.here rd) = bits r 63 32 ∧
      (rn ≠ rd → t.readSlot (s.here rn) = bits r 31 0) ∧
      t.cpsr = (if sf then s.cpsr.setMulLong r s.free else s.cpsr) ∧ t.pc = s.pc + 4 ∧
      Frame s t [s.here rd, s.here rn] [] [] := by
  refine ⟨_, by rw [multiplyLong, whenPassed_true hc, hr]; rfl, ?_⟩
  generalize hs2 : (if sf then (s.advance 4).withCpsr ((s.advance 4).cpsr.setMulLong r (s.advance 4).free)
    else s.advance 4) = s2
  have hm : s2.cpsr = if sf then s.cpsr.setMulLong r s.free else s.cpsr := by subst hs2; cases sf <;> simp
  have hp : s2.pc = s.pc + 4 := by subst hs2; cases sf <;> simp
  have hh : ∀ i, s2.here i = s.here i := fun i => by simp [State.here, hm]; cases sf <;> rfl
  have hf : Frame s s2 [] [] [] := by
    subst hs2; cases sf
    · exact frame_advance s 4
    · exact (frame_advance s 4).trans (frame_withCpsr _ _)
  have hfs := (hf.trans (frame_setX s2 rn (bits r 31 0))).trans (frame_setX _ rd (bits r 63 32))
  refine ⟨?_, fun hne => ?_, by simp [hm], by simp [setX_pc, hd, hn, hp], ?_⟩
  · rw [← hh]
    simpa [State.here] using setX_readSlot_same (s2.setX rn (bits r 31 0)) rd (bits r 63 32) hd
  · rw [setX_readSlot]
    · rw [← hh]; exact setX_readSlot_same _ _ _ hn
    · rw [← hh]; simpa [State.here, slot_inj] using hne
    · simpa using hn
  · refine hfs.mono ?_ (by simp) (by simp)
    simp only [here_setX, hh]; simp

/-- The unsigned product as a number. -/
theorem unsignedProduct_eq (a b : Word) : unsignedProduct a b = BitVec.ofNat 64 (a.toNat * b.toNat) := by
  apply BitVec.eq_of_toNat_eq
  simp only [unsignedProduct, BitVec.toNat_mul, BitVec.toNat_setWidth, BitVec.toNat_ofNat]
  rw [Nat.mod_eq_of_lt (a := a.toNat) (by omega), Nat.mod_eq_of_lt (a := b.toNat) (by omega)]

/-- The signed product as a number. -/
theorem signedProduct_eq (a b : Word) : signedProduct a b = BitVec.ofInt 64 (a.toInt * b.toInt) := by
  apply BitVec.eq_of_toInt_eq
  simp only [signedProduct, BitVec.toInt_mul, BitVec.toInt_ofInt]
  rw [BitVec.toInt_signExtend_of_le (by decide), BitVec.toInt_signExtend_of_le (by decide)]

/-- The accumulator as a number. -/
theorem longAccumulator_eq (rd rn : Reg) (s : State) :
    longAccumulator rd rn s = BitVec.ofNat 64 ((s.x rd).toNat * 2 ^ 32 + (s.x rn).toNat) := by
  apply BitVec.eq_of_toNat_eq
  rw [longAccumulator, BitVec.toNat_append, BitVec.toNat_ofNat, Nat.shiftLeft_eq, Nat.mul_comm,
    ← Nat.two_pow_add_eq_or_of_lt (s.x rn).isLt, Nat.mod_eq_of_lt]
  have := (s.x rd).isLt
  have := (s.x rn).isLt
  omega

/-! ## Status-word merges -/

/-- Each field of a packed status word, where unpacking reads it. -/
theorem fields_pack (p : Psr) :
    bit p.pack 31 = p.n ∧ bit p.pack 30 = p.z ∧ bit p.pack 29 = p.c ∧ bit p.pack 28 = p.v ∧
      bit p.pack 7 = p.irqOff ∧ bit p.pack 6 = p.fiqOff ∧ bit p.pack 5 = p.t ∧
      (bits p.pack 4 0 : BitVec 5) = p.mode.enc := by
  obtain ⟨n, z, c, v, i, f, t, m⟩ := p
  cases m <;> cases n <;> cases z <;> cases c <;> cases v <;> cases i <;> cases f <;> cases t <;> decide

/-- Merging with a mask of the flag byte (`f`) and the control byte (`c`), field by field. -/
theorem merge_spec (p : Psr) (f c : Bool) (v : Word) :
    p.merge ((if f then 0xF0000000#32 else 0#32) ||| (if c then 0x000000FF#32 else 0#32)) v =
      { n := if f then v.getLsbD 31 else p.n, z := if f then v.getLsbD 30 else p.z,
        c := if f then v.getLsbD 29 else p.c, v := if f then v.getLsbD 28 else p.v,
        irqOff := if c then v.getLsbD 7 else p.irqOff, fiqOff := if c then v.getLsbD 6 else p.fiqOff,
        t := if c then v.getLsbD 5 else p.t,
        mode := if c then Mode.ofBits (v.extractLsb' 0 5) else p.mode } := by
  have hp := fields_pack p
  simp only [bit] at hp
  obtain ⟨h1, h2, h3, h4, h5, h6, h7, h8⟩ := hp
  have hm : ∀ m : Mode, Mode.ofBits m.enc = m := by intro m; cases m <;> rfl
  generalize hk : (if f then 0xF0000000#32 else 0#32) ||| (if c then 0x000000FF#32 else 0#32) = k
  have hb : (bits ((p.pack &&& ~~~k) ||| (v &&& k)) 4 0 : BitVec 5) =
      if c then v.extractLsb' 0 5 else p.mode.enc := by
    rw [← h8, ← hk]
    apply BitVec.eq_of_getLsbD_eq
    intro i hi
    have : i = 0 ∨ i = 1 ∨ i = 2 ∨ i = 3 ∨ i = 4 := by omega
    rcases this with rfl | rfl | rfl | rfl | rfl <;> cases f <;> cases c <;> simp [bits]
  simp only [Psr.merge, Psr.unpack, bit, hb]
  simp at h1 h2 h3 h4 h5 h6 h7
  subst hk
  cases f <;> cases c <;> simp [h1, h2, h3, h4, h5, h6, h7, hm]

/-- R39: the mask of MSR to the CPSR, in the form `merge_spec` takes. -/
theorem msrCpsrMask_eq (m : Mode) (fmask : BitVec 4) :
    msrCpsrMask m fmask = (if fmask.getLsbD 3 then 0xF0000000#32 else 0#32) |||
      (if fmask.getLsbD 0 && m != .usr then 0x000000FF#32 else 0#32) := by
  revert fmask
  cases m <;> decide

end Sys2Proof.Machine
end

