-- ==== Sys2Proof/Laws/Block.lean ====
section
/-! SUPPORT. Block transfers: which registers are transferred and at which address, what loading a list of registers
leaves, and what storing one does to memory. -/

namespace Sys2Proof.Machine

/-! ## Registers and addresses (R265, R270) -/

theorem mem_blockRegs (rlist : BitVec 16) (i : Reg) : i ∈ blockRegs rlist ↔ transferred rlist i := by
  unfold blockRegs transferred
  split
  · simp
  · have : i ∈ ([0, 1, 2, 3, 4, 5, 6, 7, 8, 9, 10, 11, 12, 13, 14, 15] : List Reg) := by revert i; decide
    rw [List.mem_filter, and_iff_right this]
    rfl

theorem nodup_blockRegs (rlist : BitVec 16) : (blockRegs rlist).Nodup := by
  unfold blockRegs
  split
  · simp
  · exact List.Nodup.filter _ (by decide)

theorem length_blockRegs_le (rlist : BitVec 16) : (blockRegs rlist).length ≤ 16 := by
  unfold blockRegs
  split
  · simp
  · exact List.length_filter_le _ _

/-- The list of all register numbers, as numbers. -/
theorem allRegs_eq : ([0, 1, 2, 3, 4, 5, 6, 7, 8, 9, 10, 11, 12, 13, 14, 15] : List Reg) =
    (List.range 16).map (BitVec.ofNat 4) := by decide

/-- The model's register list is the specification's. -/
theorem blockRegs_eq (rlist : BitVec 16) : blockRegs rlist = transferredRegs rlist := by
  unfold blockRegs transferredRegs
  split
  · rfl
  · rw [allRegs_eq, List.filter_map]
    rfl

/-- The model's word count is the specification's. -/
theorem blockCount_eq (rlist : BitVec 16) : blockCount rlist = blockWords rlist := by
  unfold blockCount blockWords
  split
  · rfl
  · rename_i h
    rw [blockRegs_eq, transferredRegs, if_neg h, List.length_map]

/-- R265: each of the four forms has the model's lowest address and final base. -/
theorem mem_blockForms {base : Word} {rlist : BitVec 16} {e : Bool × Bool × Word × Word}
    (h : e ∈ blockForms base rlist) :
    e.2.2.1 = blockStart e.1 e.2.1 base rlist ∧ e.2.2.2 = blockFinal e.2.1 base rlist := by
  simp only [blockForms, List.mem_cons, List.not_mem_nil, or_false] at h
  rcases h with rfl | rfl | rfl | rfl <;> simp [blockStart, blockFinal, blockBytes, blockCount_eq]

/-- The position of a member of a filtered list counts the members kept before it. -/
theorem idxOf_filter {α : Type} [DecidableEq α] (p : α → Bool) (x : α) (hp : p x = true) (l : List α) (hx : x ∈ l) :
    (l.filter p).idxOf x = ((l.takeWhile (· ≠ x)).filter p).length := by
  induction l with
  | nil => simp at hx
  | cons y l ih =>
    by_cases h : y = x
    · subst h; simp [hp]
    · have hx' : x ∈ l := by simpa [Ne.symm h] using hx
      rw [List.takeWhile_cons_of_pos (by simpa using h)]
      cases hy : p y
      · simp [hy, ih hx']
      · simp [hy, List.idxOf_cons_ne _ h, ih hx']

/-- R265: a transferred register stands at as many places from the start as there are listed registers below it. -/
theorem idxOf_blockRegs (rlist : BitVec 16) (i : Reg) (h : transferred rlist i) :
    (blockRegs rlist).idxOf i = ((List.range i.toNat).filter fun j => rlist.getLsbD j).length := by
  unfold transferred at h
  unfold blockRegs
  split
  · simp_all
  · rename_i hz
    rw [if_neg hz] at h
    have hm : ∀ i : Reg, i ∈ ([0, 1, 2, 3, 4, 5, 6, 7, 8, 9, 10, 11, 12, 13, 14, 15] : List Reg) := by decide
    have ht : ([0, 1, 2, 3, 4, 5, 6, 7, 8, 9, 10, 11, 12, 13, 14, 15] : List Reg).takeWhile (· ≠ i) =
        (List.range i.toNat).map (BitVec.ofNat 4) := by
      clear h hm hz; revert i; decide
    rw [idxOf_filter _ _ (by simpa [bit] using h) _ (hm i), ht, List.filter_map, List.length_map]
    congr 1
    apply List.filter_congr
    intro j hj
    have : j < 16 := by have := List.mem_range.1 hj; omega
    simp [bit, Nat.mod_eq_of_lt this]

/-- Every entry of a plan stands as many words above the start as there are registers before it. -/
theorem mem_blockAddrs (l : List Reg) (hl : l.Nodup) (a : Word) (i : Reg) (b : Word) :
    (i, b) ∈ blockAddrs l a ↔ i ∈ l ∧ b = a + BitVec.ofNat 32 (4 * l.idxOf i) := by
  induction l generalizing a with
  | nil => simp [blockAddrs]
  | cons j l ih =>
    obtain ⟨hj, hl⟩ := List.nodup_cons.1 hl
    rw [blockAddrs, List.mem_cons, ih hl]
    by_cases h : i = j
    · subst h
      simp [hj]
    · have : a + 4#32 + BitVec.ofNat 32 (4 * l.idxOf i) = a + BitVec.ofNat 32 (4 * (l.idxOf i + 1)) := by
        apply BitVec.eq_of_toNat_eq; simp; omega
      rw [List.idxOf_cons_ne _ (Ne.symm h), ← this]
      simp [h]

theorem blockAddrs_map_fst (l : List Reg) (a : Word) : (blockAddrs l a).map Prod.fst = l := by
  induction l generalizing a <;> simp [blockAddrs, *]

/-- The plan of a block transfer, entry by entry. -/
theorem mem_blockPlan (p u : Bool) (base : Word) (rlist : BitVec 16) (i : Reg) (a : Word) :
    (i, a) ∈ blockPlan p u base rlist ↔ transferred rlist i ∧ a = blockAddr (blockStart p u base rlist) rlist i := by
  rw [blockPlan, mem_blockAddrs _ (nodup_blockRegs _), mem_blockRegs]
  refine and_congr_right fun h => ?_
  rw [idxOf_blockRegs _ _ h, blockAddr]

/-! ## Loads -/

/-- The bank a block load writes. -/
def State.loadSlot (s : State) (userBank : Bool) (i : Reg) : Slot := if userBank then slot .usr i else s.here i

theorem loadSlot_inj (s : State) (ub : Bool) (i j : Reg) : s.loadSlot ub i = s.loadSlot ub j ↔ i = j := by
  cases ub
  · exact here_inj s i j
  · exact slot_inj .usr i j

@[simp] theorem loadSlot_eq_pcSlot (s : State) (ub : Bool) (i : Reg) : s.loadSlot ub i = pcSlot ↔ i = 15#4 := by
  cases ub <;> simp [State.loadSlot]

theorem setLoaded_cons (ub : Bool) (s : State) (i : Reg) (v : Word) (l : List (Reg × Word)) :
    s.setLoaded ub ((i, v) :: l) =
      (if i = 15#4 then s else s.writeSlot (s.loadSlot ub i) v).setLoaded ub l := by
  rw [State.setLoaded]
  by_cases h : i = 15#4
  · simp [h]
  · cases ub <;> simp [State.loadSlot, State.setXu, State.here, setX_eq, h]

/-- What writing a list of loaded registers leaves alone. -/
theorem setLoaded_frame (ub : Bool) (s : State) (l : List (Reg × Word)) :
    (s.setLoaded ub l).cpsr = s.cpsr ∧ (s.setLoaded ub l).pc = s.pc ∧ (s.setLoaded ub l).mem = s.mem ∧
    (s.setLoaded ub l).free = s.free ∧ Frame s (s.setLoaded ub l) (l.map fun e => s.loadSlot ub e.1) [] [] := by
  induction l generalizing s with
  | nil => exact ⟨rfl, rfl, rfl, rfl, Frame.refl s⟩
  | cons e l ih =>
    obtain ⟨i, v⟩ := e
    rw [setLoaded_cons]
    by_cases h : i = 15#4
    · rw [if_pos h]
      obtain ⟨h1, h2, h3, h4, h5⟩ := ih s
      exact ⟨h1, h2, h3, h4, h5.mono (fun σ hσ => .inl (by simp [hσ])) (by simp) (by simp)⟩
    · rw [if_neg h]
      obtain ⟨h1, h2, h3, h4, h5⟩ := ih (s.writeSlot (s.loadSlot ub i) v)
      have hs : ∀ j, (s.writeSlot (s.loadSlot ub i) v).loadSlot ub j = s.loadSlot ub j := by
        intro j; cases ub <;> simp [State.loadSlot, State.here]
      have hp : (s.writeSlot (s.loadSlot ub i) v).pc = s.pc := by
        rw [pc_writeSlot, if_neg]; rw [eq_comm, loadSlot_eq_pcSlot]; exact h
      simp only [hs] at h5
      refine ⟨by simp [h1], h2.trans hp, by simp [h3], by simp [h4], ?_⟩
      exact ((frame_writeSlot s _ v).trans h5).mono (fun σ hσ => .inl (by simpa using hσ)) (by simp) (by simp)

/-- Every loaded register but r15 holds its word. -/
theorem setLoaded_read (ub : Bool) (s : State) (l : List (Reg × Word)) (hn : (l.map Prod.fst).Nodup) (i : Reg)
    (v : Word) (h : (i, v) ∈ l) (hi : i ≠ 15#4) : (s.setLoaded ub l).readSlot (s.loadSlot ub i) = v := by
  induction l generalizing s with
  | nil => simp at h
  | cons e l ih =>
    obtain ⟨j, w⟩ := e
    obtain ⟨hj, hl⟩ := List.nodup_cons.1 hn
    rw [setLoaded_cons]
    rcases List.mem_cons.1 h with h | h
    · obtain ⟨rfl, rfl⟩ := Prod.mk.inj h
      rw [if_neg hi]
      have hf := (setLoaded_frame ub (s.writeSlot (s.loadSlot ub i) v) l).2.2.2.2.1 (s.loadSlot ub i) ?_ (by simpa using hi)
      · rw [hf, readSlot_writeSlot_same]
      · have hs : ∀ k, (s.writeSlot (s.loadSlot ub i) v).loadSlot ub k = s.loadSlot ub k := by
          intro k; cases ub <;> simp [State.loadSlot, State.here]
        simp only [hs, List.mem_map, not_exists, not_and, loadSlot_inj]
        intro e hab he
        exact hj (List.mem_map.2 ⟨e, hab, he⟩)
    · by_cases hj15 : j = 15#4
      · rw [if_pos hj15]; exact ih s hl h
      · rw [if_neg hj15]
        have := ih (s.writeSlot (s.loadSlot ub j) w) hl h
        rwa [show (s.writeSlot (s.loadSlot ub j) w).loadSlot ub i = s.loadSlot ub i by
          cases ub <;> simp [State.loadSlot, State.here]] at this

/-- The words a plan loads, looked up by register. -/
theorem lookup_loadList (s : State) (p u : Bool) (base : Word) (rlist : BitVec 16) (i : Reg) :
    (transferred rlist i →
      (loadList s (blockPlan p u base rlist)).lookup i = some (s.load32 (blockAddr (blockStart p u base rlist) rlist i))) ∧
    (¬transferred rlist i → (loadList s (blockPlan p u base rlist)).lookup i = none) := by
  have key : ∀ (l : List (Reg × Word)) (a : Word), (l.map Prod.fst).Nodup → (i, a) ∈ l →
      (loadList s l).lookup i = some (s.memRead a .word) := by
    intro l a
    induction l with
    | nil => simp
    | cons e l ih =>
      obtain ⟨j, b⟩ := e
      intro hn hm
      obtain ⟨hj, hl⟩ := List.nodup_cons.1 hn
      by_cases hij : i = j
      · subst hij
        rcases List.mem_cons.1 hm with hm | hm
        · simp [loadList, (Prod.mk.inj hm).2]
        · exact absurd (List.mem_map_of_mem (f := Prod.fst) hm) hj
      · rcases List.mem_cons.1 hm with hm | hm
        · exact absurd (Prod.mk.inj hm).1 hij
        · have := ih hl hm
          simpa [loadList, List.lookup_cons, beq_false_of_ne hij] using this
  constructor
  · intro h
    refine key _ _ ?_ ((mem_blockPlan p u base rlist i _).2 ⟨h, rfl⟩)
    rw [blockPlan, blockAddrs_map_fst]; exact nodup_blockRegs _
  · intro h
    rw [List.lookup_eq_none_iff]
    rintro ⟨j, v⟩ hm
    obtain ⟨⟨k, a⟩, hk, he⟩ := List.mem_map.1 hm
    have := ((mem_blockPlan p u base rlist k a).1 hk).1
    obtain ⟨rfl, -⟩ := Prod.mk.inj he
    rw [bne_iff_ne]
    rintro rfl; exact h this

/-! ## Stores -/

theorem span_append (a : Word) (m n : Nat) : span a (m + n) = span a m ++ span (a + BitVec.ofNat 32 m) n := by
  induction m generalizing a with
  | zero => simp [span]
  | succ m ih => rw [Nat.succ_add, span, span, ih, add_ofNat_succ]; rfl

/-- What storing a list of registers leaves alone, and that it keeps memory canonical. -/
theorem storeList_frame (value : Reg → Word) (s : State) (l : List Reg) (a : Word) :
    (s.storeList value (blockAddrs l a)).cpsr = s.cpsr ∧ (s.storeList value (blockAddrs l a)).pc = s.pc ∧
    (s.mem.wf = true → (s.storeList value (blockAddrs l a)).mem.wf = true) ∧
    Frame s (s.storeList value (blockAddrs l a)) [] [] (span a (4 * l.length)) := by
  induction l generalizing s a with
  | nil => exact ⟨rfl, rfl, id, Frame.refl s⟩
  | cons i l ih =>
    obtain ⟨h1, h2, h3, h4⟩ := ih (s.memWrite a .word (value i)) (a + 4)
    refine ⟨h1.trans (memWrite_cpsr ..), h2.trans (memWrite_pc ..), fun h => h3 (memWrite_wf _ _ _ _ h), ?_⟩
    have := (frame_memWrite s a .word (value i)).trans h4
    rw [show 4 * (i :: l).length = 4 + 4 * l.length by simp; omega, span_append]
    exact this

/-- The bytes of a word store, at the four offsets. -/
theorem load8_memWrite_word (s : State) (a v : Word) (k : Nat) (hk : k < 4) (hw : s.mem.wf = true)
    (hp : s.plain (span a 4)) : (s.memWrite a .word v).load8 (a + BitVec.ofNat 32 k) = (splitWord v)[k]'(by
      simpa [splitWord, splitHalf] using hk) := by
  rw [memWrite_eq]
  exact load8_storeBytes_at s a (splitWord v) k (by simpa [splitWord, splitHalf] using hk)
    (by simp [splitWord]) hw (by simpa [splitWord, splitHalf] using hp)

/-- Every stored register's bytes stand at its address. -/
theorem storeList_read (value : Reg → Word) (s : State) (l : List Reg) (hn : l.Nodup) (a : Word)
    (hlen : l.length ≤ 16) (hw : s.mem.wf = true) (hp : s.plain (span a (4 * l.length))) (i : Reg) (b : Word)
    (h : (i, b) ∈ blockAddrs l a) (k : Nat) (hk : k < 4) :
    (s.storeList value (blockAddrs l a)).load8 (b + BitVec.ofNat 32 k) = (splitWord (value i))[k]'(by
      simpa [splitWord, splitHalf] using hk) := by
  induction l generalizing s a with
  | nil => simp [blockAddrs] at h
  | cons j l ih =>
    obtain ⟨hj, hl⟩ := List.nodup_cons.1 hn
    rw [show 4 * (j :: l).length = 4 + 4 * l.length by simp; omega, span_append] at hp
    simp only [List.length_cons] at hlen
    rw [blockAddrs, List.mem_cons] at h
    rw [blockAddrs, State.storeList]
    rcases h with h | h
    · obtain ⟨rfl, rfl⟩ := Prod.mk.inj h
      rw [(storeList_frame value (s.memWrite b .word (value i)) l (b + 4)).2.2.2.2.2.1]
      · exact load8_memWrite_word s b _ k hk hw fun c hc => hp c (List.mem_append_left _ hc)
      · rw [mem_span]
        rintro ⟨m, hm, he⟩
        have := congrArg BitVec.toNat he
        simp at this
        omega
    · exact ih _ hl _ (by omega) (memWrite_wf _ _ _ _ hw)
        (fun c hc => by rw [memWrite_bus]; exact hp c (List.mem_append_right _ hc)) h

end Sys2Proof.Machine
end

