-- ==== Sys2Proof/Laws/Decode.lean ====
section
/-! SUPPORT. Decoding what the encoder writes, family by family, and the decoder's steps bit by bit. -/

set_option linter.unusedSimpArgs false

namespace Sys2Proof

/-! ## The steps of the wide decoder (R92) -/

variable {w : Word}

/-- Step 4, single transfers. -/
theorem decodeWide_single (h27 : bit w 27 = false) (h26 : bit w 26 = true) :
   decodeWide w = decodeSingle (Cond.ofBits (bits w 31 28)) w := by
  rw [decodeWide, if_neg (bits_ne 22 rfl (by decide) h26), if_neg (bits_ne 3 rfl (by decide) h27), if_neg (bits_ne 2
    rfl (by decide) h27), if_pos ((run2 rfl).2 ⟨h26, h27⟩)]

/-- Step 4, block transfers. -/
theorem decodeWide_block (h27 : bit w 27 = true) (h26 : bit w 26 = false) (h25 : bit w 25 = false) :
   decodeWide w = decodeBlock (Cond.ofBits (bits w 31 28)) w := by
  rw [decodeWide, if_neg (bits_ne 23 rfl (by decide) h27), if_neg (bits_ne 2 rfl (by decide) h26), if_neg (bits_ne 0
    rfl (by decide) h25),
   if_neg (bits_ne 0 rfl (by decide) h26), if_pos ((run3 rfl).2 ⟨h25, h26, h27⟩)]

/-- Step 3. -/
theorem decodeWide_branch (h27 : bit w 27 = true) (h26 : bit w 26 = false) (h25 : bit w 25 = true) :
   decodeWide w = if bit w 24 then .bl (Cond.ofBits (bits w 31 28)) (bits w 23 0) else .b (Cond.ofBits (bits w 31
     28)) (bits w 23 0) := by
  rw [decodeWide, if_neg (bits_ne 23 rfl (by decide) h27), if_neg (bits_ne 2 rfl (by decide) h26), if_pos ((run3
    rfl).2 ⟨h25, h26, h27⟩)]

/-- Step 2. -/
theorem decodeWide_swi (h27 : bit w 27 = true) (h26 : bit w 26 = true) (h25 : bit w 25 = true) (h24 : bit w 24 =
    true) :
   decodeWide w = .swi (Cond.ofBits (bits w 31 28)) (bits w 23 0) := by
  rw [decodeWide, if_neg (bits_ne 23 rfl (by decide) h27), if_pos ((run4 rfl).2 ⟨h24, h25, h26, h27⟩)]

/-- Steps 1 to 4 take no word of bits 27:26 = 00 but BX's. -/
theorem decodeWide_low (h27 : bit w 27 = false) (h26 : bit w 26 = false) (h1 : (bits w 27 4 : BitVec 24) ≠
    0x12FFF1#24) :
    decodeWide w =
      let cond := Cond.ofBits (bits w 31 28)
      if isSwap w then decodeSwap cond w
      else if isHalfOrSigned w then decodeHalf cond w
      else if isMultiply w then decodeMultiply cond w
      else if isMulhalf w then decodeMulhalf cond w
      else if isPsrTransfer w then decodePsrTransfer cond w
      else decodeDataProcessing cond w := by
  have h00 : (bits w 27 26 : BitVec 2) = 0#2 := (run2 rfl).2 ⟨h26, h27⟩
  rw [decodeWide, if_neg h1, if_neg (bits_ne 3 rfl (by decide) h27), if_neg (bits_ne 2 rfl (by decide) h27),
    if_neg (bits_ne 0 rfl (by decide) h26), if_neg (bits_ne 2 rfl (by decide) h27), if_pos h00]

/-- R93 (a), bit by bit. -/
theorem isSwap_eq (w : Word) : isSwap w = (!bit w 27 && !bit w 26 && !bit w 25 && bit w 24 && !bit w 23 && !bit w 21
    && !bit w 20 && (bits w 11 8 : BitVec 4) == 0#4 && bit w 7 && !bit w 6 && !bit w 5 && bit w 4) := by
  rw [Bool.eq_iff_iff]
  simp [isSwap, run5 (w := w) (hi := 27) (lo := 23) rfl, run2 (w := w) (hi := 6) (lo := 5) rfl, bit_const]
  tauto

/-- R93 (a), bit by bit. -/
theorem isHalfOrSigned_eq (w : Word) : isHalfOrSigned w = (!bit w 27 && !bit w 26 && !bit w 25 && bit w 7 && bit w 4
    && (bit w 6 && bit w 20 || !bit w 6 && bit w 5)) := by
  rw [Bool.eq_iff_iff]
  simp [isHalfOrSigned, run3 (w := w) (hi := 27) (lo := 25) rfl, run2 (w := w) (hi := 6) (lo := 5) rfl, bit_const]
  tauto

/-- R93 (b), bit by bit. -/
theorem isMultiply_eq (w : Word) : isMultiply w = (!bit w 27 && !bit w 26 && !bit w 25 && !bit w 24 &&
    (bit w 23 || !bit w 22) && bit w 7 && !bit w 6 && !bit w 5 && bit w 4) := by
  have t : ∀ i, Nat.testBit 1 i = decide (i = 0) := fun i => by cases i <;> simp [Nat.testBit_succ]
  rw [Bool.eq_iff_iff]
  simp [isMultiply, run5 (w := w) (hi := 27) (lo := 23) rfl, run6 (w := w) (hi := 27) (lo := 22) rfl, run2 (w := w)
    (hi := 6) (lo := 5) rfl, bit_const, t]
  cases bit w 23 <;> simp <;> tauto

/-- R93 (b), bit by bit. -/
theorem isMulhalf_eq (w : Word) : isMulhalf w = (!bit w 27 && !bit w 26 && !bit w 25 && bit w 24 && !bit w 23 &&
    !bit w 20
    && bit w 7 && !bit w 4) := by
  rw [Bool.eq_iff_iff]
  simp [isMulhalf, run5 (w := w) (hi := 27) (lo := 23) rfl, bit_const]
  tauto

/-- R93 (c), bit by bit. -/
theorem isPsrTransfer_eq (w : Word) : isPsrTransfer w = (!bit w 27 && !bit w 26 && bit w 24 && !bit w 23 && !bit w 20
    && (!bit w 25 || bit w 21)) := by
  rw [Bool.eq_iff_iff]
  simp [isPsrTransfer, run2 (w := w) (hi := 27) (lo := 26) rfl, run2 (w := w) (hi := 24) (lo := 23) rfl, bit_const]
  tauto

/-- Step 9: bits 27:26 = 11 without bits 25:24 = 11 (R94). -/
theorem decodeWide_undefined {w : Word} (h27 : bit w 27 = true) (h26 : bit w 26 = true) (h : (bit w 25 && bit w 24)
    = false) :
    decodeWide w = .undefined (Cond.ofBits (bits w 31 28)) := by
  have hswi : (bits w 27 24 : BitVec 4) ≠ 15#4 := fun e => by
    have f := (bits_eq_iff rfl).1 e
    have h24 : bit w 24 = true := f 0 (by decide)
    have h25 : bit w 25 = true := f 1 (by decide)
    simp [h24, h25] at h
  rw [decodeWide, if_neg (bits_ne 23 rfl (by decide) h27), if_neg hswi, if_neg (bits_ne 1 rfl (by decide) h26),
    if_neg (bits_ne 1 rfl (by decide) h27), if_neg (bits_ne 1 rfl (by decide) h26)]
  simp only [isSwap_eq, isHalfOrSigned_eq, isMultiply_eq, isMulhalf_eq, isPsrTransfer_eq, h27]
  simp [run2 (w := w) (hi := 27) (lo := 26) rfl, h27, h26, bit_const]

/-! ## Fields there and back -/

theorem Cond.ofBits_toBits (c : Cond) : Cond.ofBits c.toBits = c := by cases c <;> rfl

theorem ShiftKind.ofBits_toBits (k : ShiftKind) : ShiftKind.ofBits k.toBits = k := by cases k <;> rfl

theorem DpOp.ofBits_toBits (k : DpOp) : DpOp.ofBits k.toBits = k := by cases k <;> rfl

theorem PsrSel.ofBit_toBit (k : PsrSel) : PsrSel.ofBit k.toBit = k := by cases k <;> rfl

theorem MulOp.ofBits_toBits (k : MulOp) : MulOp.ofBits k.toBits = k := by cases k <;> rfl

/-! ## Families -/

/-- R104, rotated immediate. -/
theorem decode_encodeDp_imm (op : DpOp) (cond : Cond) (sf : Bool) (rn rd : Reg) (rot : BitVec 4) (imm : BitVec 8) (h
    : (op.instr cond sf rn rd (.imm rot imm)).wf = true) : (encodeDp op cond sf rn rd (.imm rot imm)).decode =
    op.instr cond sf rn rd (.imm rot imm) := by
  have e : (0x02000000#32) = place 32 (1#1) 25 := by decide
  rw [encodeDp, Code.decode, Op2.toBits, e, decodeWide_low]
  · simp only [isSwap_eq, isHalfOrSigned_eq, isMultiply_eq, isMulhalf_eq, isPsrTransfer_eq, decodeDataProcessing,
    decodeOp2, bits_or, bit_or]
    simp [bit_place, bit_flag, bits_place_same, bits_place_off, bits_flag_off, Cond.ofBits_toBits, DpOp.ofBits_toBits]
    cases op <;> simp_all [DpOp.instr, Instr.wf, DpOp.toBits]
  · simp [bit_or, bit_place, bit_flag]
  · simp [bit_or, bit_place, bit_flag]
  · refine bits_ne 21 rfl (by decide) ?_
    simp [bit_or, bit_place, bit_flag]
    decide

/-- R104, shift by an immediate. -/
theorem decode_encodeDp_shiftImm (op : DpOp) (cond : Cond) (sf : Bool) (rn rd : Reg) (shamt : BitVec 5) (kind :
    ShiftKind) (rm : Reg) (h : (op.instr cond sf rn rd (.shiftImm shamt kind rm)).wf = true) : (encodeDp op cond sf
    rn rd (.shiftImm shamt kind rm)).decode = op.instr cond sf rn rd (.shiftImm shamt kind rm) := by
  rw [encodeDp, Code.decode, Op2.toBits, decodeWide_low]
  · simp only [isSwap_eq, isHalfOrSigned_eq, isMultiply_eq, isMulhalf_eq, isPsrTransfer_eq, decodeDataProcessing,
    decodeOp2, bits_or, bit_or]
    simp [bit_place, bit_flag, bits_place_same, bits_place_off, bits_flag_off, Cond.ofBits_toBits,
      DpOp.ofBits_toBits, ShiftKind.ofBits_toBits]
    cases op <;> simp_all [DpOp.instr, Instr.wf, DpOp.toBits]
  · simp [bit_or, bit_place, bit_flag]
  · simp [bit_or, bit_place, bit_flag]
  · refine bits_ne 0 rfl (by decide) ?_
    simp [bit_or, bit_place, bit_flag]
    decide

/-- R104, shift by a register. -/
theorem decode_encodeDp_shiftReg (op : DpOp) (cond : Cond) (sf : Bool) (rn rd rs : Reg) (kind : ShiftKind) (rm :
    Reg) (h : (op.instr cond sf rn rd (.shiftReg rs kind rm)).wf = true) : (encodeDp op cond sf rn rd (.shiftReg rs
    kind rm)).decode = op.instr cond sf rn rd (.shiftReg rs kind rm) := by
  have e : (0x10#32) = place 32 (1#1) 4 := by decide
  rw [encodeDp, Code.decode, Op2.toBits, e, decodeWide_low]
  · simp only [isSwap_eq, isHalfOrSigned_eq, isMultiply_eq, isMulhalf_eq, isPsrTransfer_eq, decodeDataProcessing,
    decodeOp2, bits_or, bit_or]
    simp [bit_place, bit_flag, bits_place_same, bits_place_off, bits_flag_off, Cond.ofBits_toBits,
      DpOp.ofBits_toBits, ShiftKind.ofBits_toBits]
    cases op <;> simp_all [DpOp.instr, Instr.wf, DpOp.toBits]
  · simp [bit_or, bit_place, bit_flag]
  · simp [bit_or, bit_place, bit_flag]
  · intro h1
    have f := (bits_eq_iff rfl).1 h1
    have h24 := f 20 (by decide)
    have h23 := f 19 (by decide)
    have h22 := f 18 (by decide)
    have h21 := f 17 (by decide)
    have h20 := f 16 (by decide)
    simp [bit_or, bit_place, bit_flag] at h24 h23 h22 h21 h20
    cases op <;> simp_all [DpOp.toBits, DpOp.instr, Instr.wf, bit]

/-- R99, immediate offset. -/
theorem decode_encodeSingleImm (op : SingleOp) (cond : Cond) (p u w : Bool) (rn rd : Reg) (imm : BitVec 12) :
    (encodeSingleImm op cond p u w rn rd imm).decode = op.instrImm cond p u w rn rd imm := by
  have e : (0x04000000#32) = place 32 (1#1) 26 := by decide
  have e' : op.toBits = flag 32 (op.toBits.getLsbD 22) 22 ||| flag 32 (op.toBits.getLsbD 20) 20 := by cases op <;>
    decide
  rw [encodeSingleImm, Code.decode, e, e', transferBits, decodeWide_single]
  · simp only [decodeSingle, bits_or, bit_or]
    simp [bit_place, bit_flag, bits_place_same, bits_place_off, bits_flag_off, Cond.ofBits_toBits]
    cases op <;> simp [SingleOp.ofBits, SingleOp.toBits]
  · simp [bit_or, bit_place, bit_flag]
  · simp [bit_or, bit_place, bit_flag]

/-- R99, register offset. -/
theorem decode_encodeSingleReg (op : SingleOp) (cond : Cond) (p u w : Bool) (rn rd : Reg) (shamt : BitVec 5) (kind :
    ShiftKind) (rm : Reg) : (encodeSingleReg op cond p u w rn rd shamt kind rm).decode = op.instrReg cond p u w rn
    rd shamt kind rm := by
  have e : (0x06000000#32) = place 32 (3#2) 25 := by decide
  have e' : op.toBits = flag 32 (op.toBits.getLsbD 22) 22 ||| flag 32 (op.toBits.getLsbD 20) 20 := by cases op <;>
    decide
  rw [encodeSingleReg, Code.decode, e, e', transferBits, decodeWide_single]
  · simp only [decodeSingle, bits_or, bit_or]
    simp [bit_place, bit_flag, bits_place_same, bits_place_off, bits_flag_off, Cond.ofBits_toBits,
      ShiftKind.ofBits_toBits]
    cases op <;> simp [SingleOp.ofBits, SingleOp.toBits]
  · simp [bit_or, bit_place, bit_flag]
  · simp [bit_or, bit_place, bit_flag]

/-- The bits of L and SH in a half-word or signed transfer. -/
theorem HalfOp.toBits_eq (op : HalfOp) : op.toBits = place 32 (1#1) 7 ||| place 32 (1#1) 4 ||| place 32 (bits
    op.toBits 6 5 : BitVec 2) 5 ||| flag 32 (bit op.toBits 20) 20 := by cases op <;> decide

/-- R101: the split immediate put together again. -/
theorem splitByte (v : BitVec 8) : (bits v 7 4 : BitVec 4) ++ (bits v 3 0 : BitVec 4) = v := by revert v; decide

/-- R101, immediate offset. -/
theorem decode_encodeHalfImm (op : HalfOp) (cond : Cond) (p u w : Bool) (rn rd : Reg) (imm : BitVec 8) :
    (encodeHalfImm op cond p u w rn rd imm).decode = op.instrImm cond p u w rn rd imm := by
  have e : (0x00400000#32) = place 32 (1#1) 22 := by decide
  rw [encodeHalfImm, Code.decode, e, op.toBits_eq, transferBits, decodeWide_low]
  · simp only [isSwap_eq, isHalfOrSigned_eq, decodeHalf, bits_or, bit_or]
    simp [bit_place, bit_flag, bits_place_same, bits_place_off, bits_flag_off, Cond.ofBits_toBits, splitByte]
    cases op <;> simp [HalfOp.ofBits, HalfOp.toBits, bits, bit]
  · simp [bit_or, bit_place, bit_flag]
  · simp [bit_or, bit_place, bit_flag]
  · refine bits_ne 3 rfl (by decide) ?_
    simp [bit_or, bit_place, bit_flag]
    decide

/-- R101, register offset. -/
theorem decode_encodeHalfReg (op : HalfOp) (cond : Cond) (p u w : Bool) (rn rd rm : Reg) : (encodeHalfReg op cond p
    u w rn rd rm).decode = op.instrReg cond p u w rn rd rm := by
  rw [encodeHalfReg, Code.decode, op.toBits_eq, transferBits, decodeWide_low]
  · simp only [isSwap_eq, isHalfOrSigned_eq, decodeHalf, bits_or, bit_or]
    simp [bit_place, bit_flag, bits_place_same, bits_place_off, bits_flag_off, Cond.ofBits_toBits]
    cases op <;> simp [HalfOp.ofBits, HalfOp.toBits, bits, bit]
  · simp [bit_or, bit_place, bit_flag]
  · simp [bit_or, bit_place, bit_flag]
  · refine bits_ne 3 rfl (by decide) ?_
    simp [bit_or, bit_place, bit_flag]
    decide

/-- R100. -/
theorem decode_encodeBlock (l : Bool) (cond : Cond) (p u sb w : Bool) (rn : Reg) (rlist : BitVec 16) : (encodeBlock
    l cond p u sb w rn rlist).decode = if l then .ldm cond p u sb w rn rlist else .stm cond p u sb w rn rlist := by
  have e : (0x08000000#32) = place 32 (1#1) 27 := by decide
  rw [encodeBlock, Code.decode, e, decodeWide_block]
  · simp only [decodeBlock, bits_or, bit_or]
    simp [bit_place, bit_flag, bits_place_same, bits_place_off, bits_flag_off, Cond.ofBits_toBits]
  · simp [bit_or, bit_place, bit_flag]
  · simp [bit_or, bit_place, bit_flag]
  · simp [bit_or, bit_place, bit_flag]

/-- R101, swap. -/
theorem decode_encodeSwap (b : Bool) (cond : Cond) (rn rd rm : Reg) : (encodeSwap b cond rn rd rm).decode = if b
    then .swpb cond rn rd rm else .swp cond rn rd rm := by
  have e : (0x01000090#32) = place 32 (1#1) 24 ||| place 32 (1#1) 7 ||| place 32 (1#1) 4 := by decide
  rw [encodeSwap, Code.decode, e, decodeWide_low]
  · simp only [isSwap_eq, decodeSwap, bits_or, bit_or]
    simp [bit_place, bit_flag, bits_place_same, bits_place_off, bits_flag_off, Cond.ofBits_toBits]
  · simp [bit_or, bit_place, bit_flag]
  · simp [bit_or, bit_place, bit_flag]
  · refine bits_ne 3 rfl (by decide) ?_
    simp [bit_or, bit_place, bit_flag]
    decide

/-- R102. -/
theorem decode_encodeMul (op : MulOp) (cond : Cond) (sf : Bool) (rd rn rs rm : Reg) : (encodeMul op cond sf rd rn rs
    rm).decode = op.instr cond sf rd rn rs rm := by
  have e : (0x00000090#32) = place 32 (1#1) 7 ||| place 32 (1#1) 4 := by decide
  rw [encodeMul, Code.decode, e, decodeWide_low]
  · simp only [isSwap_eq, isHalfOrSigned_eq, isMultiply_eq, decodeMultiply, bits_or, bit_or]
    simp [bit_place, bit_flag, bits_place_same, bits_place_off, bits_flag_off, Cond.ofBits_toBits,
      MulOp.ofBits_toBits]
    cases op <;> simp [MulOp.toBits]
  · simp [bit_or, bit_place, bit_flag]
  · simp [bit_or, bit_place, bit_flag]
  · refine bits_ne 3 rfl (by decide) ?_
    simp [bit_or, bit_place, bit_flag]
    decide

/-- R102, multiply-half. -/
theorem decode_mulhalf (cond : Cond) (rd rn rs rm : Reg) (hiOp hiYx : BitVec 2) : (encode (.mulhalf cond rd rn rs rm
    hiOp hiYx)).decode = .mulhalf cond rd rn rs rm hiOp hiYx := by
  have e : (0x01000080#32) = place 32 (1#1) 24 ||| place 32 (1#1) 7 := by decide
  rw [encode, Code.decode, e, decodeWide_low]
  · simp only [isSwap_eq, isHalfOrSigned_eq, isMultiply_eq, isMulhalf_eq, decodeMulhalf, bits_or, bit_or]
    simp [bit_place, bit_flag, bits_place_same, bits_place_off, bits_flag_off, Cond.ofBits_toBits]
  · simp [bit_or, bit_place, bit_flag]
  · simp [bit_or, bit_place, bit_flag]
  · refine bits_ne 3 rfl (by decide) ?_
    simp [bit_or, bit_place, bit_flag]
    decide

/-- R103, MRS. -/
theorem decode_mrs (cond : Cond) (psr : PsrSel) (rd : Reg) : (encode (.mrs cond psr rd)).decode = .mrs cond psr rd
    := by
  have e : (0x010F0000#32) = place 32 (1#1) 24 ||| place 32 (15#4) 16 := by decide
  rw [encode, Code.decode, e, decodeWide_low]
  · simp only [isSwap_eq, isHalfOrSigned_eq, isMultiply_eq, isMulhalf_eq, isPsrTransfer_eq, decodePsrTransfer,
    bits_or, bit_or]
    simp [bit_place, bit_flag, bits_place_same, bits_place_off, bits_flag_off, Cond.ofBits_toBits, PsrSel.ofBit_toBit]
  · simp [bit_or, bit_place, bit_flag]
  · simp [bit_or, bit_place, bit_flag]
  · refine bits_ne 0 rfl (by decide) ?_
    simp [bit_or, bit_place, bit_flag]
    decide

/-- R103, MSR register. -/
theorem decode_msrReg (cond : Cond) (psr : PsrSel) (fmask : BitVec 4) (rm : Reg) : (encode (.msrReg cond psr fmask
    rm)).decode = .msrReg cond psr fmask rm := by
  have e : (0x0120F000#32) = place 32 (1#1) 24 ||| place 32 (1#1) 21 ||| place 32 (15#4) 12 := by decide
  rw [encode, Code.decode, e, decodeWide_low]
  · simp only [isSwap_eq, isHalfOrSigned_eq, isMultiply_eq, isMulhalf_eq, isPsrTransfer_eq, decodePsrTransfer,
    bits_or, bit_or]
    simp [bit_place, bit_flag, bits_place_same, bits_place_off, bits_flag_off, Cond.ofBits_toBits, PsrSel.ofBit_toBit]
  · simp [bit_or, bit_place, bit_flag]
  · simp [bit_or, bit_place, bit_flag]
  · refine bits_ne 0 rfl (by decide) ?_
    simp [bit_or, bit_place, bit_flag]
    decide

/-- R103, MSR immediate. -/
theorem decode_msrImm (cond : Cond) (psr : PsrSel) (fmask rot : BitVec 4) (imm : BitVec 8) : (encode (.msrImm cond
    psr fmask rot imm)).decode = .msrImm cond psr fmask rot imm := by
  have e : (0x0320F000#32) = place 32 (3#2) 24 ||| place 32 (1#1) 21 ||| place 32 (15#4) 12 := by decide
  rw [encode, Code.decode, e, decodeWide_low]
  · simp only [isSwap_eq, isHalfOrSigned_eq, isMultiply_eq, isMulhalf_eq, isPsrTransfer_eq, decodePsrTransfer,
    bits_or, bit_or]
    simp [bit_place, bit_flag, bits_place_same, bits_place_off, bits_flag_off, Cond.ofBits_toBits, PsrSel.ofBit_toBit]
  · simp [bit_or, bit_place, bit_flag]
  · simp [bit_or, bit_place, bit_flag]
  · refine bits_ne 21 rfl (by decide) ?_
    simp [bit_or, bit_place, bit_flag]
    decide

/-- R96. -/
theorem decode_bx (cond : Cond) (rn : Reg) : (encode (.bx cond rn)).decode = .bx cond rn := by
  have e : (0x012FFF10#32) = place 32 (0x12FFF1#24) 4 := by decide
  rw [encode, Code.decode, e, decodeWide]
  simp only [bits_or]
  simp [bits_place_same, bits_place_off, Cond.ofBits_toBits]

/-- R97. -/
theorem decode_swi (cond : Cond) (comment : BitVec 24) : (encode (.swi cond comment)).decode = .swi cond comment := by
  have e : (0x0F000000#32) = place 32 (15#4) 24 := by decide
  rw [encode, Code.decode, e, decodeWide_swi]
  · simp only [bits_or]
    simp [bits_place_same, bits_place_off, Cond.ofBits_toBits]
  all_goals simp [bit_or, bit_place]

/-- R98. -/
theorem decode_b (cond : Cond) (offset : BitVec 24) : (encode (.b cond offset)).decode = .b cond offset := by
  have e : (0x0A000000#32) = place 32 (5#3) 25 := by decide
  rw [encode, Code.decode, e, decodeWide_branch]
  · simp only [bits_or, bit_or]
    simp [bits_place_same, bits_place_off, bit_place, Cond.ofBits_toBits]
  all_goals simp [bit_or, bit_place]

/-- R98. -/
theorem decode_bl (cond : Cond) (offset : BitVec 24) : (encode (.bl cond offset)).decode = .bl cond offset := by
  have e : (0x0B000000#32) = place 32 (5#3) 25 ||| place 32 (1#1) 24 := by decide
  rw [encode, Code.decode, e, decodeWide_branch]
  · simp only [bits_or, bit_or]
    simp [bits_place_same, bits_place_off, bit_place, Cond.ofBits_toBits]
  all_goals simp [bit_or, bit_place]

/-- R105. -/
theorem decode_undefined (cond : Cond) : (encode (.undefined cond)).decode = .undefined cond := by
  have e : (0x0E000000#32) = place 32 (7#3) 25 := by decide
  rw [encode, Code.decode, e, decodeWide_undefined]
  · simp only [bits_or, bit_or]
    simp [bits_place_same, bits_place_off, bit_place, Cond.ofBits_toBits]
  all_goals simp [bit_or, bit_place]

end Sys2Proof
end

