-- ==== Sys2Proof/Laws/PerInstr.lean ====
section
/-! SUPPORT. One lemma per constructor of `Instr`: decoding the code of a well-formed instruction gives it back. -/

set_option linter.unusedSimpArgs false

namespace Sys2Proof.Laws.RoundTrip

/-- Decoding what the encoder writes for `i` gives `i` back. -/
def Statement (i : Instr) : Prop := i.wf = true → (encode i).decode = i

/-! ## Wide -/

theorem bx (cond : Cond) (rn : Reg) : Statement (.bx cond rn) :=
  fun _ => decode_bx cond rn

theorem swi (cond : Cond) (comment : BitVec 24) : Statement (.swi cond comment) :=
  fun _ => decode_swi cond comment

theorem b (cond : Cond) (offset : BitVec 24) : Statement (.b cond offset) :=
  fun _ => decode_b cond offset

theorem bl (cond : Cond) (offset : BitVec 24) : Statement (.bl cond offset) :=
  fun _ => decode_bl cond offset

theorem ldrImm (cond : Cond) (p u w : Bool) (rn rd : Reg) (imm : BitVec 12) :
    Statement (.ldrImm cond p u w rn rd imm) :=
  fun _ => decode_encodeSingleImm .ldr cond p u w rn rd imm

theorem ldrReg (cond : Cond) (p u w : Bool) (rn rd : Reg) (shamt : BitVec 5) (kind : ShiftKind) (rm : Reg) :
    Statement (.ldrReg cond p u w rn rd shamt kind rm) :=
  fun _ => decode_encodeSingleReg .ldr cond p u w rn rd shamt kind rm

theorem strImm (cond : Cond) (p u w : Bool) (rn rd : Reg) (imm : BitVec 12) :
    Statement (.strImm cond p u w rn rd imm) :=
  fun _ => decode_encodeSingleImm .str cond p u w rn rd imm

theorem strReg (cond : Cond) (p u w : Bool) (rn rd : Reg) (shamt : BitVec 5) (kind : ShiftKind) (rm : Reg) :
    Statement (.strReg cond p u w rn rd shamt kind rm) :=
  fun _ => decode_encodeSingleReg .str cond p u w rn rd shamt kind rm

theorem ldrbImm (cond : Cond) (p u w : Bool) (rn rd : Reg) (imm : BitVec 12) :
    Statement (.ldrbImm cond p u w rn rd imm) :=
  fun _ => decode_encodeSingleImm .ldrb cond p u w rn rd imm

theorem ldrbReg (cond : Cond) (p u w : Bool) (rn rd : Reg) (shamt : BitVec 5) (kind : ShiftKind) (rm : Reg) :
    Statement (.ldrbReg cond p u w rn rd shamt kind rm) :=
  fun _ => decode_encodeSingleReg .ldrb cond p u w rn rd shamt kind rm

theorem strbImm (cond : Cond) (p u w : Bool) (rn rd : Reg) (imm : BitVec 12) :
    Statement (.strbImm cond p u w rn rd imm) :=
  fun _ => decode_encodeSingleImm .strb cond p u w rn rd imm

theorem strbReg (cond : Cond) (p u w : Bool) (rn rd : Reg) (shamt : BitVec 5) (kind : ShiftKind) (rm : Reg) :
    Statement (.strbReg cond p u w rn rd shamt kind rm) :=
  fun _ => decode_encodeSingleReg .strb cond p u w rn rd shamt kind rm

theorem ldm (cond : Cond) (p u sb w : Bool) (rn : Reg) (rlist : BitVec 16) :
    Statement (.ldm cond p u sb w rn rlist) :=
  fun _ => decode_encodeBlock true cond p u sb w rn rlist

theorem stm (cond : Cond) (p u sb w : Bool) (rn : Reg) (rlist : BitVec 16) :
    Statement (.stm cond p u sb w rn rlist) :=
  fun _ => decode_encodeBlock false cond p u sb w rn rlist

theorem swp (cond : Cond) (rn rd rm : Reg) : Statement (.swp cond rn rd rm) :=
  fun _ => decode_encodeSwap false cond rn rd rm

theorem swpb (cond : Cond) (rn rd rm : Reg) : Statement (.swpb cond rn rd rm) :=
  fun _ => decode_encodeSwap true cond rn rd rm

theorem ldrhImm (cond : Cond) (p u w : Bool) (rn rd : Reg) (imm : BitVec 8) :
    Statement (.ldrhImm cond p u w rn rd imm) :=
  fun _ => decode_encodeHalfImm .ldrh cond p u w rn rd imm

theorem ldrhReg (cond : Cond) (p u w : Bool) (rn rd rm : Reg) : Statement (.ldrhReg cond p u w rn rd rm) :=
  fun _ => decode_encodeHalfReg .ldrh cond p u w rn rd rm

theorem strhImm (cond : Cond) (p u w : Bool) (rn rd : Reg) (imm : BitVec 8) :
    Statement (.strhImm cond p u w rn rd imm) :=
  fun _ => decode_encodeHalfImm .strh cond p u w rn rd imm

theorem strhReg (cond : Cond) (p u w : Bool) (rn rd rm : Reg) : Statement (.strhReg cond p u w rn rd rm) :=
  fun _ => decode_encodeHalfReg .strh cond p u w rn rd rm

theorem ldrsbImm (cond : Cond) (p u w : Bool) (rn rd : Reg) (imm : BitVec 8) :
    Statement (.ldrsbImm cond p u w rn rd imm) :=
  fun _ => decode_encodeHalfImm .ldrsb cond p u w rn rd imm

theorem ldrsbReg (cond : Cond) (p u w : Bool) (rn rd rm : Reg) : Statement (.ldrsbReg cond p u w rn rd rm) :=
  fun _ => decode_encodeHalfReg .ldrsb cond p u w rn rd rm

theorem ldrshImm (cond : Cond) (p u w : Bool) (rn rd : Reg) (imm : BitVec 8) :
    Statement (.ldrshImm cond p u w rn rd imm) :=
  fun _ => decode_encodeHalfImm .ldrsh cond p u w rn rd imm

theorem ldrshReg (cond : Cond) (p u w : Bool) (rn rd rm : Reg) : Statement (.ldrshReg cond p u w rn rd rm) :=
  fun _ => decode_encodeHalfReg .ldrsh cond p u w rn rd rm

theorem mul (cond : Cond) (sf : Bool) (rd rn rs rm : Reg) : Statement (.mul cond sf rd rn rs rm) :=
  fun _ => decode_encodeMul .mul cond sf rd rn rs rm

theorem mla (cond : Cond) (sf : Bool) (rd rn rs rm : Reg) : Statement (.mla cond sf rd rn rs rm) :=
  fun _ => decode_encodeMul .mla cond sf rd rn rs rm

theorem umull (cond : Cond) (sf : Bool) (rd rn rs rm : Reg) : Statement (.umull cond sf rd rn rs rm) :=
  fun _ => decode_encodeMul .umull cond sf rd rn rs rm

theorem umlal (cond : Cond) (sf : Bool) (rd rn rs rm : Reg) : Statement (.umlal cond sf rd rn rs rm) :=
  fun _ => decode_encodeMul .umlal cond sf rd rn rs rm

theorem smull (cond : Cond) (sf : Bool) (rd rn rs rm : Reg) : Statement (.smull cond sf rd rn rs rm) :=
  fun _ => decode_encodeMul .smull cond sf rd rn rs rm

theorem smlal (cond : Cond) (sf : Bool) (rd rn rs rm : Reg) : Statement (.smlal cond sf rd rn rs rm) :=
  fun _ => decode_encodeMul .smlal cond sf rd rn rs rm

theorem mulhalf (cond : Cond) (rd rn rs rm : Reg) (hiOp hiYx : BitVec 2) :
    Statement (.mulhalf cond rd rn rs rm hiOp hiYx) :=
  fun _ => decode_mulhalf cond rd rn rs rm hiOp hiYx

theorem mrs (cond : Cond) (psr : PsrSel) (rd : Reg) : Statement (.mrs cond psr rd) :=
  fun _ => decode_mrs cond psr rd

theorem msrReg (cond : Cond) (psr : PsrSel) (fmask : BitVec 4) (rm : Reg) : Statement (.msrReg cond psr fmask rm) :=
  fun _ => decode_msrReg cond psr fmask rm

theorem msrImm (cond : Cond) (psr : PsrSel) (fmask rot : BitVec 4) (imm : BitVec 8) :
    Statement (.msrImm cond psr fmask rot imm) :=
  fun _ => decode_msrImm cond psr fmask rot imm

theorem andImm (cond : Cond) (sf : Bool) (rn rd : Reg) (rot : BitVec 4) (imm : BitVec 8) :
    Statement (.andImm cond sf rn rd rot imm) :=
  decode_encodeDp_imm .and cond sf rn rd rot imm

theorem andShiftImm (cond : Cond) (sf : Bool) (rn rd : Reg) (shamt : BitVec 5) (kind : ShiftKind) (rm : Reg) :
    Statement (.andShiftImm cond sf rn rd shamt kind rm) :=
  decode_encodeDp_shiftImm .and cond sf rn rd shamt kind rm

theorem andShiftReg (cond : Cond) (sf : Bool) (rn rd rs : Reg) (kind : ShiftKind) (rm : Reg) :
    Statement (.andShiftReg cond sf rn rd rs kind rm) :=
  decode_encodeDp_shiftReg .and cond sf rn rd rs kind rm

theorem eorImm (cond : Cond) (sf : Bool) (rn rd : Reg) (rot : BitVec 4) (imm : BitVec 8) :
    Statement (.eorImm cond sf rn rd rot imm) :=
  decode_encodeDp_imm .eor cond sf rn rd rot imm

theorem eorShiftImm (cond : Cond) (sf : Bool) (rn rd : Reg) (shamt : BitVec 5) (kind : ShiftKind) (rm : Reg) :
    Statement (.eorShiftImm cond sf rn rd shamt kind rm) :=
  decode_encodeDp_shiftImm .eor cond sf rn rd shamt kind rm

theorem eorShiftReg (cond : Cond) (sf : Bool) (rn rd rs : Reg) (kind : ShiftKind) (rm : Reg) :
    Statement (.eorShiftReg cond sf rn rd rs kind rm) :=
  decode_encodeDp_shiftReg .eor cond sf rn rd rs kind rm

theorem subImm (cond : Cond) (sf : Bool) (rn rd : Reg) (rot : BitVec 4) (imm : BitVec 8) :
    Statement (.subImm cond sf rn rd rot imm) :=
  decode_encodeDp_imm .sub cond sf rn rd rot imm

theorem subShiftImm (cond : Cond) (sf : Bool) (rn rd : Reg) (shamt : BitVec 5) (kind : ShiftKind) (rm : Reg) :
    Statement (.subShiftImm cond sf rn rd shamt kind rm) :=
  decode_encodeDp_shiftImm .sub cond sf rn rd shamt kind rm

theorem subShiftReg (cond : Cond) (sf : Bool) (rn rd rs : Reg) (kind : ShiftKind) (rm : Reg) :
    Statement (.subShiftReg cond sf rn rd rs kind rm) :=
  decode_encodeDp_shiftReg .sub cond sf rn rd rs kind rm

theorem rsbImm (cond : Cond) (sf : Bool) (rn rd : Reg) (rot : BitVec 4) (imm : BitVec 8) :
    Statement (.rsbImm cond sf rn rd rot imm) :=
  decode_encodeDp_imm .rsb cond sf rn rd rot imm

theorem rsbShiftImm (cond : Cond) (sf : Bool) (rn rd : Reg) (shamt : BitVec 5) (kind : ShiftKind) (rm : Reg) :
    Statement (.rsbShiftImm cond sf rn rd shamt kind rm) :=
  decode_encodeDp_shiftImm .rsb cond sf rn rd shamt kind rm

theorem rsbShiftReg (cond : Cond) (sf : Bool) (rn rd rs : Reg) (kind : ShiftKind) (rm : Reg) :
    Statement (.rsbShiftReg cond sf rn rd rs kind rm) :=
  decode_encodeDp_shiftReg .rsb cond sf rn rd rs kind rm

theorem addImm (cond : Cond) (sf : Bool) (rn rd : Reg) (rot : BitVec 4) (imm : BitVec 8) :
    Statement (.addImm cond sf rn rd rot imm) :=
  decode_encodeDp_imm .add cond sf rn rd rot imm

theorem addShiftImm (cond : Cond) (sf : Bool) (rn rd : Reg) (shamt : BitVec 5) (kind : ShiftKind) (rm : Reg) :
    Statement (.addShiftImm cond sf rn rd shamt kind rm) :=
  decode_encodeDp_shiftImm .add cond sf rn rd shamt kind rm

theorem addShiftReg (cond : Cond) (sf : Bool) (rn rd rs : Reg) (kind : ShiftKind) (rm : Reg) :
    Statement (.addShiftReg cond sf rn rd rs kind rm) :=
  decode_encodeDp_shiftReg .add cond sf rn rd rs kind rm

theorem adcImm (cond : Cond) (sf : Bool) (rn rd : Reg) (rot : BitVec 4) (imm : BitVec 8) :
    Statement (.adcImm cond sf rn rd rot imm) :=
  decode_encodeDp_imm .adc cond sf rn rd rot imm

theorem adcShiftImm (cond : Cond) (sf : Bool) (rn rd : Reg) (shamt : BitVec 5) (kind : ShiftKind) (rm : Reg) :
    Statement (.adcShiftImm cond sf rn rd shamt kind rm) :=
  decode_encodeDp_shiftImm .adc cond sf rn rd shamt kind rm

theorem adcShiftReg (cond : Cond) (sf : Bool) (rn rd rs : Reg) (kind : ShiftKind) (rm : Reg) :
    Statement (.adcShiftReg cond sf rn rd rs kind rm) :=
  decode_encodeDp_shiftReg .adc cond sf rn rd rs kind rm

theorem sbcImm (cond : Cond) (sf : Bool) (rn rd : Reg) (rot : BitVec 4) (imm : BitVec 8) :
    Statement (.sbcImm cond sf rn rd rot imm) :=
  decode_encodeDp_imm .sbc cond sf rn rd rot imm

theorem sbcShiftImm (cond : Cond) (sf : Bool) (rn rd : Reg) (shamt : BitVec 5) (kind : ShiftKind) (rm : Reg) :
    Statement (.sbcShiftImm cond sf rn rd shamt kind rm) :=
  decode_encodeDp_shiftImm .sbc cond sf rn rd shamt kind rm

theorem sbcShiftReg (cond : Cond) (sf : Bool) (rn rd rs : Reg) (kind : ShiftKind) (rm : Reg) :
    Statement (.sbcShiftReg cond sf rn rd rs kind rm) :=
  decode_encodeDp_shiftReg .sbc cond sf rn rd rs kind rm

theorem rscImm (cond : Cond) (sf : Bool) (rn rd : Reg) (rot : BitVec 4) (imm : BitVec 8) :
    Statement (.rscImm cond sf rn rd rot imm) :=
  decode_encodeDp_imm .rsc cond sf rn rd rot imm

theorem rscShiftImm (cond : Cond) (sf : Bool) (rn rd : Reg) (shamt : BitVec 5) (kind : ShiftKind) (rm : Reg) :
    Statement (.rscShiftImm cond sf rn rd shamt kind rm) :=
  decode_encodeDp_shiftImm .rsc cond sf rn rd shamt kind rm

theorem rscShiftReg (cond : Cond) (sf : Bool) (rn rd rs : Reg) (kind : ShiftKind) (rm : Reg) :
    Statement (.rscShiftReg cond sf rn rd rs kind rm) :=
  decode_encodeDp_shiftReg .rsc cond sf rn rd rs kind rm

theorem tstImm (cond : Cond) (sf : Bool) (rn rd : Reg) (rot : BitVec 4) (imm : BitVec 8) :
    Statement (.tstImm cond sf rn rd rot imm) :=
  decode_encodeDp_imm .tst cond sf rn rd rot imm

theorem tstShiftImm (cond : Cond) (sf : Bool) (rn rd : Reg) (shamt : BitVec 5) (kind : ShiftKind) (rm : Reg) :
    Statement (.tstShiftImm cond sf rn rd shamt kind rm) :=
  decode_encodeDp_shiftImm .tst cond sf rn rd shamt kind rm

theorem tstShiftReg (cond : Cond) (sf : Bool) (rn rd rs : Reg) (kind : ShiftKind) (rm : Reg) :
    Statement (.tstShiftReg cond sf rn rd rs kind rm) :=
  decode_encodeDp_shiftReg .tst cond sf rn rd rs kind rm

theorem teqImm (cond : Cond) (sf : Bool) (rn rd : Reg) (rot : BitVec 4) (imm : BitVec 8) :
    Statement (.teqImm cond sf rn rd rot imm) :=
  decode_encodeDp_imm .teq cond sf rn rd rot imm

theorem teqShiftImm (cond : Cond) (sf : Bool) (rn rd : Reg) (shamt : BitVec 5) (kind : ShiftKind) (rm : Reg) :
    Statement (.teqShiftImm cond sf rn rd shamt kind rm) :=
  decode_encodeDp_shiftImm .teq cond sf rn rd shamt kind rm

theorem teqShiftReg (cond : Cond) (sf : Bool) (rn rd rs : Reg) (kind : ShiftKind) (rm : Reg) :
    Statement (.teqShiftReg cond sf rn rd rs kind rm) :=
  decode_encodeDp_shiftReg .teq cond sf rn rd rs kind rm

theorem cmpImm (cond : Cond) (sf : Bool) (rn rd : Reg) (rot : BitVec 4) (imm : BitVec 8) :
    Statement (.cmpImm cond sf rn rd rot imm) :=
  decode_encodeDp_imm .cmp cond sf rn rd rot imm

theorem cmpShiftImm (cond : Cond) (sf : Bool) (rn rd : Reg) (shamt : BitVec 5) (kind : ShiftKind) (rm : Reg) :
    Statement (.cmpShiftImm cond sf rn rd shamt kind rm) :=
  decode_encodeDp_shiftImm .cmp cond sf rn rd shamt kind rm

theorem cmpShiftReg (cond : Cond) (sf : Bool) (rn rd rs : Reg) (kind : ShiftKind) (rm : Reg) :
    Statement (.cmpShiftReg cond sf rn rd rs kind rm) :=
  decode_encodeDp_shiftReg .cmp cond sf rn rd rs kind rm

theorem cmnImm (cond : Cond) (sf : Bool) (rn rd : Reg) (rot : BitVec 4) (imm : BitVec 8) :
    Statement (.cmnImm cond sf rn rd rot imm) :=
  decode_encodeDp_imm .cmn cond sf rn rd rot imm

theorem cmnShiftImm (cond : Cond) (sf : Bool) (rn rd : Reg) (shamt : BitVec 5) (kind : ShiftKind) (rm : Reg) :
    Statement (.cmnShiftImm cond sf rn rd shamt kind rm) :=
  decode_encodeDp_shiftImm .cmn cond sf rn rd shamt kind rm

theorem cmnShiftReg (cond : Cond) (sf : Bool) (rn rd rs : Reg) (kind : ShiftKind) (rm : Reg) :
    Statement (.cmnShiftReg cond sf rn rd rs kind rm) :=
  decode_encodeDp_shiftReg .cmn cond sf rn rd rs kind rm

theorem orrImm (cond : Cond) (sf : Bool) (rn rd : Reg) (rot : BitVec 4) (imm : BitVec 8) :
    Statement (.orrImm cond sf rn rd rot imm) :=
  decode_encodeDp_imm .orr cond sf rn rd rot imm

theorem orrShiftImm (cond : Cond) (sf : Bool) (rn rd : Reg) (shamt : BitVec 5) (kind : ShiftKind) (rm : Reg) :
    Statement (.orrShiftImm cond sf rn rd shamt kind rm) :=
  decode_encodeDp_shiftImm .orr cond sf rn rd shamt kind rm

theorem orrShiftReg (cond : Cond) (sf : Bool) (rn rd rs : Reg) (kind : ShiftKind) (rm : Reg) :
    Statement (.orrShiftReg cond sf rn rd rs kind rm) :=
  decode_encodeDp_shiftReg .orr cond sf rn rd rs kind rm

theorem movImm (cond : Cond) (sf : Bool) (rn rd : Reg) (rot : BitVec 4) (imm : BitVec 8) :
    Statement (.movImm cond sf rn rd rot imm) :=
  decode_encodeDp_imm .mov cond sf rn rd rot imm

theorem movShiftImm (cond : Cond) (sf : Bool) (rn rd : Reg) (shamt : BitVec 5) (kind : ShiftKind) (rm : Reg) :
    Statement (.movShiftImm cond sf rn rd shamt kind rm) :=
  decode_encodeDp_shiftImm .mov cond sf rn rd shamt kind rm

theorem movShiftReg (cond : Cond) (sf : Bool) (rn rd rs : Reg) (kind : ShiftKind) (rm : Reg) :
    Statement (.movShiftReg cond sf rn rd rs kind rm) :=
  decode_encodeDp_shiftReg .mov cond sf rn rd rs kind rm

theorem bicImm (cond : Cond) (sf : Bool) (rn rd : Reg) (rot : BitVec 4) (imm : BitVec 8) :
    Statement (.bicImm cond sf rn rd rot imm) :=
  decode_encodeDp_imm .bic cond sf rn rd rot imm

theorem bicShiftImm (cond : Cond) (sf : Bool) (rn rd : Reg) (shamt : BitVec 5) (kind : ShiftKind) (rm : Reg) :
    Statement (.bicShiftImm cond sf rn rd shamt kind rm) :=
  decode_encodeDp_shiftImm .bic cond sf rn rd shamt kind rm

theorem bicShiftReg (cond : Cond) (sf : Bool) (rn rd rs : Reg) (kind : ShiftKind) (rm : Reg) :
    Statement (.bicShiftReg cond sf rn rd rs kind rm) :=
  decode_encodeDp_shiftReg .bic cond sf rn rd rs kind rm

theorem mvnImm (cond : Cond) (sf : Bool) (rn rd : Reg) (rot : BitVec 4) (imm : BitVec 8) :
    Statement (.mvnImm cond sf rn rd rot imm) :=
  decode_encodeDp_imm .mvn cond sf rn rd rot imm

theorem mvnShiftImm (cond : Cond) (sf : Bool) (rn rd : Reg) (shamt : BitVec 5) (kind : ShiftKind) (rm : Reg) :
    Statement (.mvnShiftImm cond sf rn rd shamt kind rm) :=
  decode_encodeDp_shiftImm .mvn cond sf rn rd shamt kind rm

theorem mvnShiftReg (cond : Cond) (sf : Bool) (rn rd rs : Reg) (kind : ShiftKind) (rm : Reg) :
    Statement (.mvnShiftReg cond sf rn rd rs kind rm) :=
  decode_encodeDp_shiftReg .mvn cond sf rn rd rs kind rm

theorem undefined (cond : Cond) : Statement (.undefined cond) :=
  fun _ => decode_undefined cond

/-! ## Compressed -/

theorem cLslImm (shamt : BitVec 5) (rm rd : LowReg) : Statement (.cLslImm shamt rm rd) := fun _ => by
  simp [encode, encodeLow5, Code.decode, decodeCompressed, decodeFormat1, bits_or, bit_or,
    bit_place, bits_place_same, bits_place_off]

theorem cLsrImm (shamt : BitVec 5) (rm rd : LowReg) : Statement (.cLsrImm shamt rm rd) := fun _ => by
  simp [encode, encodeLow5, Code.decode, decodeCompressed, decodeFormat1, bits_or, bit_or,
    bit_place, bits_place_same, bits_place_off]
  simp [bits, bit]

theorem cAsrImm (shamt : BitVec 5) (rm rd : LowReg) : Statement (.cAsrImm shamt rm rd) := fun _ => by
  simp [encode, encodeLow5, Code.decode, decodeCompressed, decodeFormat1, bits_or, bit_or,
    bit_place, bits_place_same, bits_place_off]
  simp [bits, bit]

theorem cAddReg (rm rn rd : LowReg) : Statement (.cAddReg rm rn rd) := fun _ => by
  simp [encode, encodeLow3, Code.decode, decodeCompressed, decodeFormat2, bits_or, bit_or,
    bit_place, bits_place_same, bits_place_off]
  simp [bits, bit]

theorem cAddImm3 (imm : BitVec 3) (rn rd : LowReg) : Statement (.cAddImm3 imm rn rd) := fun _ => by
  simp [encode, encodeLow3, Code.decode, decodeCompressed, decodeFormat2, bits_or, bit_or,
    bit_place, bits_place_same, bits_place_off]
  simp [bits, bit]

theorem cSubReg (rm rn rd : LowReg) : Statement (.cSubReg rm rn rd) := fun _ => by
  simp [encode, encodeLow3, Code.decode, decodeCompressed, decodeFormat2, bits_or, bit_or,
    bit_place, bits_place_same, bits_place_off]
  simp [bits, bit]

theorem cSubImm3 (imm : BitVec 3) (rn rd : LowReg) : Statement (.cSubImm3 imm rn rd) := fun _ => by
  simp [encode, encodeLow3, Code.decode, decodeCompressed, decodeFormat2, bits_or, bit_or,
    bit_place, bits_place_same, bits_place_off]
  simp [bits, bit]

theorem cMovImm8 (rd : LowReg) (imm : BitVec 8) : Statement (.cMovImm8 rd imm) := fun _ => by
  simp [encode, encodeReg8, Code.decode, decodeCompressed, decodeFormat3, bits_or, bit_or,
    bit_place, bits_place_same, bits_place_off]
  simp [bits, bit]

theorem cCmpImm8 (rd : LowReg) (imm : BitVec 8) : Statement (.cCmpImm8 rd imm) := fun _ => by
  simp [encode, encodeReg8, Code.decode, decodeCompressed, decodeFormat3, bits_or, bit_or,
    bit_place, bits_place_same, bits_place_off]
  simp [bits, bit]

theorem cAddImm8 (rd : LowReg) (imm : BitVec 8) : Statement (.cAddImm8 rd imm) := fun _ => by
  simp [encode, encodeReg8, Code.decode, decodeCompressed, decodeFormat3, bits_or, bit_or,
    bit_place, bits_place_same, bits_place_off]
  simp [bits, bit]

theorem cSubImm8 (rd : LowReg) (imm : BitVec 8) : Statement (.cSubImm8 rd imm) := fun _ => by
  simp [encode, encodeReg8, Code.decode, decodeCompressed, decodeFormat3, bits_or, bit_or,
    bit_place, bits_place_same, bits_place_off]
  simp [bits, bit]

theorem cAnd (rs rd : LowReg) : Statement (.cAnd rs rd) := fun _ => by
  simp [encode, encodeLow2, Code.decode, decodeCompressed, decodeFormat4, bits_or, bit_or,
    bit_place, bits_place_same, bits_place_off]
  simp [bits, bit]

theorem cEor (rs rd : LowReg) : Statement (.cEor rs rd) := fun _ => by
  simp [encode, encodeLow2, Code.decode, decodeCompressed, decodeFormat4, bits_or, bit_or,
    bit_place, bits_place_same, bits_place_off]
  simp [bits, bit]

theorem cLslReg (rs rd : LowReg) : Statement (.cLslReg rs rd) := fun _ => by
  simp [encode, encodeLow2, Code.decode, decodeCompressed, decodeFormat4, bits_or, bit_or,
    bit_place, bits_place_same, bits_place_off]
  simp [bits, bit]

theorem cLsrReg (rs rd : LowReg) : Statement (.cLsrReg rs rd) := fun _ => by
  simp [encode, encodeLow2, Code.decode, decodeCompressed, decodeFormat4, bits_or, bit_or,
    bit_place, bits_place_same, bits_place_off]
  simp [bits, bit]

theorem cAsrReg (rs rd : LowReg) : Statement (.cAsrReg rs rd) := fun _ => by
  simp [encode, encodeLow2, Code.decode, decodeCompressed, decodeFormat4, bits_or, bit_or,
    bit_place, bits_place_same, bits_place_off]
  simp [bits, bit]

theorem cAdc (rs rd : LowReg) : Statement (.cAdc rs rd) := fun _ => by
  simp [encode, encodeLow2, Code.decode, decodeCompressed, decodeFormat4, bits_or, bit_or,
    bit_place, bits_place_same, bits_place_off]
  simp [bits, bit]

theorem cSbc (rs rd : LowReg) : Statement (.cSbc rs rd) := fun _ => by
  simp [encode, encodeLow2, Code.decode, decodeCompressed, decodeFormat4, bits_or, bit_or,
    bit_place, bits_place_same, bits_place_off]
  simp [bits, bit]

theorem cRorReg (rs rd : LowReg) : Statement (.cRorReg rs rd) := fun _ => by
  simp [encode, encodeLow2, Code.decode, decodeCompressed, decodeFormat4, bits_or, bit_or,
    bit_place, bits_place_same, bits_place_off]
  simp [bits, bit]

theorem cTst (rs rd : LowReg) : Statement (.cTst rs rd) := fun _ => by
  simp [encode, encodeLow2, Code.decode, decodeCompressed, decodeFormat4, bits_or, bit_or,
    bit_place, bits_place_same, bits_place_off]
  simp [bits, bit]

theorem cNeg (rs rd : LowReg) : Statement (.cNeg rs rd) := fun _ => by
  simp [encode, encodeLow2, Code.decode, decodeCompressed, decodeFormat4, bits_or, bit_or,
    bit_place, bits_place_same, bits_place_off]
  simp [bits, bit]

theorem cCmp (rs rd : LowReg) : Statement (.cCmp rs rd) := fun _ => by
  simp [encode, encodeLow2, Code.decode, decodeCompressed, decodeFormat4, bits_or, bit_or,
    bit_place, bits_place_same, bits_place_off]
  simp [bits, bit]

theorem cCmn (rs rd : LowReg) : Statement (.cCmn rs rd) := fun _ => by
  simp [encode, encodeLow2, Code.decode, decodeCompressed, decodeFormat4, bits_or, bit_or,
    bit_place, bits_place_same, bits_place_off]
  simp [bits, bit]

theorem cOrr (rs rd : LowReg) : Statement (.cOrr rs rd) := fun _ => by
  simp [encode, encodeLow2, Code.decode, decodeCompressed, decodeFormat4, bits_or, bit_or,
    bit_place, bits_place_same, bits_place_off]
  simp [bits, bit]

theorem cMul (rs rd : LowReg) : Statement (.cMul rs rd) := fun _ => by
  simp [encode, encodeLow2, Code.decode, decodeCompressed, decodeFormat4, bits_or, bit_or,
    bit_place, bits_place_same, bits_place_off]
  simp [bits, bit]

theorem cBic (rs rd : LowReg) : Statement (.cBic rs rd) := fun _ => by
  simp [encode, encodeLow2, Code.decode, decodeCompressed, decodeFormat4, bits_or, bit_or,
    bit_place, bits_place_same, bits_place_off]
  simp [bits, bit]

theorem cMvn (rs rd : LowReg) : Statement (.cMvn rs rd) := fun _ => by
  simp [encode, encodeLow2, Code.decode, decodeCompressed, decodeFormat4, bits_or, bit_or,
    bit_place, bits_place_same, bits_place_off]
  simp [bits, bit]

theorem cAddHi (rs rd : Reg) : Statement (.cAddHi rs rd) := fun _ => by
  revert rs rd; decide

theorem cCmpHi (rs rd : Reg) : Statement (.cCmpHi rs rd) := fun _ => by
  revert rs rd; decide

theorem cMovHi (rs rd : Reg) : Statement (.cMovHi rs rd) := fun _ => by
  revert rs rd; decide

theorem cBx (rs : Reg) : Statement (.cBx rs) := fun _ => by
  revert rs; decide

theorem cLdrPc (rd : LowReg) (imm : BitVec 8) : Statement (.cLdrPc rd imm) := fun _ => by
  simp [encode, encodeReg8, Code.decode, decodeCompressed, bits_or, bit_or,
    bit_place, bits_place_same, bits_place_off]
  simp [bits, bit]

theorem cStrReg (rm rn rd : LowReg) : Statement (.cStrReg rm rn rd) := fun _ => by
  simp [encode, encodeLow3, Code.decode, decodeCompressed, decodeFormat7, bits_or, bit_or,
    bit_place, bits_place_same, bits_place_off]
  simp [bits, bit]

theorem cStrbReg (rm rn rd : LowReg) : Statement (.cStrbReg rm rn rd) := fun _ => by
  simp [encode, encodeLow3, Code.decode, decodeCompressed, decodeFormat7, bits_or, bit_or,
    bit_place, bits_place_same, bits_place_off]
  simp [bits, bit]

theorem cLdrReg (rm rn rd : LowReg) : Statement (.cLdrReg rm rn rd) := fun _ => by
  simp [encode, encodeLow3, Code.decode, decodeCompressed, decodeFormat7, bits_or, bit_or,
    bit_place, bits_place_same, bits_place_off]
  simp [bits, bit]

theorem cLdrbReg (rm rn rd : LowReg) : Statement (.cLdrbReg rm rn rd) := fun _ => by
  simp [encode, encodeLow3, Code.decode, decodeCompressed, decodeFormat7, bits_or, bit_or,
    bit_place, bits_place_same, bits_place_off]
  simp [bits, bit]

theorem cStrhReg (rm rn rd : LowReg) : Statement (.cStrhReg rm rn rd) := fun _ => by
  simp [encode, encodeLow3, Code.decode, decodeCompressed, decodeFormat8, bits_or, bit_or,
    bit_place, bits_place_same, bits_place_off]
  simp [bits, bit]

theorem cLdrsbReg (rm rn rd : LowReg) : Statement (.cLdrsbReg rm rn rd) := fun _ => by
  simp [encode, encodeLow3, Code.decode, decodeCompressed, decodeFormat8, bits_or, bit_or,
    bit_place, bits_place_same, bits_place_off]
  simp [bits, bit]

theorem cLdrhReg (rm rn rd : LowReg) : Statement (.cLdrhReg rm rn rd) := fun _ => by
  simp [encode, encodeLow3, Code.decode, decodeCompressed, decodeFormat8, bits_or, bit_or,
    bit_place, bits_place_same, bits_place_off]
  simp [bits, bit]

theorem cLdrshReg (rm rn rd : LowReg) : Statement (.cLdrshReg rm rn rd) := fun _ => by
  simp [encode, encodeLow3, Code.decode, decodeCompressed, decodeFormat8, bits_or, bit_or,
    bit_place, bits_place_same, bits_place_off]
  simp [bits, bit]

theorem cStrImm (imm : BitVec 5) (rn rd : LowReg) : Statement (.cStrImm imm rn rd) := fun _ => by
  simp [encode, encodeLow5, Code.decode, decodeCompressed, decodeFormat9, bits_or, bit_or,
    bit_place, bits_place_same, bits_place_off]
  simp [bits, bit]

theorem cLdrImm (imm : BitVec 5) (rn rd : LowReg) : Statement (.cLdrImm imm rn rd) := fun _ => by
  simp [encode, encodeLow5, Code.decode, decodeCompressed, decodeFormat9, bits_or, bit_or,
    bit_place, bits_place_same, bits_place_off]
  simp [bits, bit]

theorem cStrbImm (imm : BitVec 5) (rn rd : LowReg) : Statement (.cStrbImm imm rn rd) := fun _ => by
  simp [encode, encodeLow5, Code.decode, decodeCompressed, decodeFormat9, bits_or, bit_or,
    bit_place, bits_place_same, bits_place_off]
  simp [bits, bit]

theorem cLdrbImm (imm : BitVec 5) (rn rd : LowReg) : Statement (.cLdrbImm imm rn rd) := fun _ => by
  simp [encode, encodeLow5, Code.decode, decodeCompressed, decodeFormat9, bits_or, bit_or,
    bit_place, bits_place_same, bits_place_off]
  simp [bits, bit]

theorem cStrhImm (imm : BitVec 5) (rn rd : LowReg) : Statement (.cStrhImm imm rn rd) := fun _ => by
  simp [encode, encodeLow5, Code.decode, decodeCompressed, decodeFormat10, bits_or, bit_or,
    bit_place, bits_place_same, bits_place_off]
  simp [bits, bit]

theorem cLdrhImm (imm : BitVec 5) (rn rd : LowReg) : Statement (.cLdrhImm imm rn rd) := fun _ => by
  simp [encode, encodeLow5, Code.decode, decodeCompressed, decodeFormat10, bits_or, bit_or,
    bit_place, bits_place_same, bits_place_off]
  simp [bits, bit]

theorem cStrSp (rd : LowReg) (imm : BitVec 8) : Statement (.cStrSp rd imm) := fun _ => by
  simp [encode, encodeReg8, Code.decode, decodeCompressed, decodeFormat11, bits_or, bit_or,
    bit_place, bits_place_same, bits_place_off]
  simp [bits, bit]

theorem cLdrSp (rd : LowReg) (imm : BitVec 8) : Statement (.cLdrSp rd imm) := fun _ => by
  simp [encode, encodeReg8, Code.decode, decodeCompressed, decodeFormat11, bits_or, bit_or,
    bit_place, bits_place_same, bits_place_off]
  simp [bits, bit]

theorem cAddPc (rd : LowReg) (imm : BitVec 8) : Statement (.cAddPc rd imm) := fun _ => by
  simp [encode, encodeReg8, Code.decode, decodeCompressed, decodeFormat12, bits_or, bit_or,
    bit_place, bits_place_same, bits_place_off]
  simp [bits, bit]

theorem cAddSp (rd : LowReg) (imm : BitVec 8) : Statement (.cAddSp rd imm) := fun _ => by
  simp [encode, encodeReg8, Code.decode, decodeCompressed, decodeFormat12, bits_or, bit_or,
    bit_place, bits_place_same, bits_place_off]
  simp [bits, bit]

theorem cAddSpImm (imm : BitVec 7) : Statement (.cAddSpImm imm) := fun _ => by
  simp [encode, Code.decode, decodeCompressed, decodeFormat13, bits_or, bit_or,
    bit_place, bits_place_same, bits_place_off]
  simp [bits, bit]

theorem cSubSpImm (imm : BitVec 7) : Statement (.cSubSpImm imm) := fun _ => by
  simp [encode, Code.decode, decodeCompressed, decodeFormat13, bits_or, bit_or,
    bit_place, bits_place_same, bits_place_off]
  simp [bits, bit]

theorem cPush (r : Bool) (rlist : BitVec 8) : Statement (.cPush r rlist) := fun _ => by
  cases r <;>
    simp [encode, Code.decode, decodeCompressed, decodeFormat14, bits_or, bit_or, bit_place, bit_flag,
      bits_place_same, bits_place_off, bits_flag_off] <;>
    simp [bits, bit, flag, place]

theorem cPop (r : Bool) (rlist : BitVec 8) : Statement (.cPop r rlist) := fun _ => by
  cases r <;>
    simp [encode, Code.decode, decodeCompressed, decodeFormat14, bits_or, bit_or, bit_place, bit_flag,
      bits_place_same, bits_place_off, bits_flag_off] <;>
    simp [bits, bit, flag, place]

theorem cStmia (rn : LowReg) (rlist : BitVec 8) : Statement (.cStmia rn rlist) := fun _ => by
  simp [encode, encodeReg8, Code.decode, decodeCompressed, decodeFormat15, bits_or, bit_or,
    bit_place, bits_place_same, bits_place_off]
  simp [bits, bit]

theorem cLdmia (rn : LowReg) (rlist : BitVec 8) : Statement (.cLdmia rn rlist) := fun _ => by
  simp [encode, encodeReg8, Code.decode, decodeCompressed, decodeFormat15, bits_or, bit_or,
    bit_place, bits_place_same, bits_place_off]
  simp [bits, bit]

theorem cBcond0 (cond : Cond) (offset : BitVec 8) : Statement (.cBcond0 cond offset) := fun h => by
  cases cond <;> simp [Instr.wf, Cond.toBits] at h <;>
    simp [encode, encodeBcond, Code.decode, decodeCompressed, decodeFormat16, Cond.toBits, Cond.ofBits, bits_or, bit_or,
      bit_place, bits_place_same, bits_place_off] <;>
    simp [bits, bit, Cond.ofBits]

theorem cBcond8 (cond : Cond) (offset : BitVec 8) : Statement (.cBcond8 cond offset) := fun h => by
  cases cond <;> simp [Instr.wf, Cond.toBits] at h <;>
    simp [encode, encodeBcond, Code.decode, decodeCompressed, decodeFormat16, Cond.toBits, Cond.ofBits, bits_or, bit_or,
      bit_place, bits_place_same, bits_place_off] <;>
    simp [bits, bit, Cond.ofBits]

theorem cBcondC (cond : Cond) (offset : BitVec 8) : Statement (.cBcondC cond offset) := fun h => by
  cases cond <;> simp [Instr.wf, Cond.toBits] at h <;>
    simp [encode, encodeBcond, Code.decode, decodeCompressed, decodeFormat16, Cond.toBits, Cond.ofBits, bits_or, bit_or,
      bit_place, bits_place_same, bits_place_off] <;>
    simp [bits, bit, Cond.ofBits]

theorem cSwi (comment : BitVec 8) : Statement (.cSwi comment) := fun _ => by
  simp [encode, Code.decode, decodeCompressed, bits_or, bit_or,
    bit_place, bits_place_same, bits_place_off]
  simp [bits, bit]

theorem cBkpt (comment : BitVec 8) : Statement (.cBkpt comment) := fun _ => by
  simp [encode, Code.decode, decodeCompressed, bits_or, bit_or,
    bit_place, bits_place_same, bits_place_off]
  simp [bits, bit]

theorem cB (offset : BitVec 11) : Statement (.cB offset) := fun _ => by
  simp [encode, Code.decode, decodeCompressed, bits_or, bit_or,
    bit_place, bits_place_same, bits_place_off]
  simp [bits, bit]

theorem cBlh1 (offset : BitVec 11) : Statement (.cBlh1 offset) := fun _ => by
  simp [encode, Code.decode, decodeCompressed, decodeFormat19, bits_or, bit_or,
    bit_place, bits_place_same, bits_place_off]
  simp [bits, bit]

theorem cBlh2 (imm : BitVec 11) : Statement (.cBlh2 imm) := fun _ => by
  simp [encode, Code.decode, decodeCompressed, decodeFormat19, bits_or, bit_or,
    bit_place, bits_place_same, bits_place_off]
  simp [bits, bit]

theorem cUndefined : Statement (.cUndefined) := fun _ => by decide

end Sys2Proof.Laws.RoundTrip
end

