-- ==== Sys2Proof/Tests/Slice0.lean ====
section
/-! SUPPORT. The model's own tests: ill-formed instructions refused; a word of every constructor written out from the
encoding its rule gives (30_encoding.md), fields set off by `_`; one step on small states, the expected values from
95_test_vectors.md or worked by hand from the rule; and for every statement of Obligations.lean with hypotheses a state
and operands that meet them, clause by clause. -/

namespace Sys2Proof.Tests
open Sys2Proof Sys2Proof.Machine

/-! ## Helpers -/

/-- Reset, then R15, the status word, register slots, saved status words and memory set. -/
def start (a cpsr : Word) (regs : List (Slot × Word)) (saved : List (Mode × Word)) (mem : List (Word × Size × Word)) :
    State :=
  let s0 := (State.reset.setPc a).withCpsr (Psr.unpack cpsr)
  let s1 := regs.foldl (fun s e => s.writeSlot e.1 e.2) s0
  let s2 := saved.foldl (fun s e => s.setSpsrOf e.1 (Psr.unpack e.2)) s1
  mem.foldl (fun s e => s.memWrite e.1 e.2.1 e.2.2) s2

/-- The outcome is a next state that shows these values. -/
def ends (r : Result) (pc cpsr : Word) (regs : List (Slot × Word)) (saved : List (Mode × Word))
    (mem : List (Word × Size × Word)) : Bool :=
  match r with
  | .next t =>
    t.pc == pc && t.cpsr.pack == cpsr && regs.all (fun e => t.readSlot e.1 == e.2) &&
      saved.all (fun e => (t.spsrOf e.1).map Psr.pack == some e.2) && mem.all (fun e => t.memRead e.1 e.2.1 == e.2.2)
  | .fault _ | .refused _ => false

/-- The same for a flag-setting multiply, whose C (and, long, V) is a free value: `nz` is N and Z. -/
def endsNZ (r : Result) (pc : Word) (nz : Bool × Bool) (regs : List (Slot × Word)) : Bool :=
  match r with
  | .next t => t.pc == pc && (t.cpsr.n, t.cpsr.z) == nz && regs.all (fun e => t.readSlot e.1 == e.2)
  | .fault _ | .refused _ => false

/-- The outcome is this refusal. -/
def refuses (r : Result) (why : Refusal) : Bool :=
  match r with
  | .refused x => x == why
  | .next _ | .fault _ => false

/-- A decidable fact about every element of a list, from its Boolean form. -/
theorem of_all {α : Type} {p : α → Prop} [DecidablePred p] {l : List α} (h : l.all (fun a => decide (p a)) = true) :
    ∀ a ∈ l, p a := by simpa using h

/-! ## Well-formedness refuses, one ill-formed term a check -/

theorem test_wf_compares_need_s :
    Instr.wf (.tstShiftImm .al false 1 0 0 .lsl 2) = false ∧ Instr.wf (.tstShiftReg .al false 1 0 3 .lsl 2) = false ∧
    Instr.wf (.teqImm .al false 1 0 0 1) = false ∧ Instr.wf (.teqShiftImm .al false 1 0 0 .lsl 2) = false ∧
    Instr.wf (.teqShiftReg .al false 1 0 3 .lsl 2) = false ∧ Instr.wf (.cmpShiftImm .al false 1 0 0 .lsl 2) = false ∧
    Instr.wf (.cmpShiftReg .al false 1 0 3 .lsl 2) = false ∧ Instr.wf (.cmnImm .al false 1 0 0 1) = false ∧
    Instr.wf (.cmnShiftImm .al false 1 0 0 .lsl 2) = false ∧ Instr.wf (.cmnShiftReg .al false 1 0 3 .lsl 2) = false := by
  decide

theorem test_wf_compressed_conditions :
    Instr.wf (.cBcond0 .hi 0) = false ∧ Instr.wf (.cBcond8 .vc 0) = false ∧ Instr.wf (.cBcond8 .gt 0) = false ∧
    Instr.wf (.cBcondC .lt 0) = false ∧ Instr.wf (.cBcondC .al 0) = false := by decide

/-! ## Decoding, a word of every constructor -/

/-- R96 to R98. -/
theorem test_decode_wide_branches :
    decodeWide 0b1110_000100101111111111110001_0001 = .bx .al 1 ∧
    decodeWide 0b1110_1111_000100100011010001010110 = .swi .al 0x123456 ∧
    decodeWide 0b1110_1010_111111111111111111111110 = .b .al 0xfffffe ∧
    decodeWide 0b1110_1011_111111111111111111111110 = .bl .al 0xfffffe := by decide

/-- R99. -/
theorem test_decode_wide_single_transfers :
    decodeWide 0b1110_010_1_1_0_0_1_0001_0010_101010111100 = .ldrImm .al true true false 1 2 0xabc ∧
    decodeWide 0b1110_011_1_1_0_0_1_0001_0010_00101_01_0_0100 = .ldrReg .al true true false 1 2 5 .lsr 4 ∧
    decodeWide 0b1110_010_1_1_0_0_0_0001_0010_101010111100 = .strImm .al true true false 1 2 0xabc ∧
    decodeWide 0b1110_011_1_1_0_0_0_0001_0010_00101_01_0_0100 = .strReg .al true true false 1 2 5 .lsr 4 ∧
    decodeWide 0b1110_010_1_1_1_0_1_0001_0010_101010111100 = .ldrbImm .al true true false 1 2 0xabc ∧
    decodeWide 0b1110_011_1_1_1_0_1_0001_0010_00101_01_0_0100 = .ldrbReg .al true true false 1 2 5 .lsr 4 ∧
    decodeWide 0b1110_010_1_1_1_0_0_0001_0010_101010111100 = .strbImm .al true true false 1 2 0xabc ∧
    decodeWide 0b1110_011_1_1_1_0_0_0001_0010_00101_01_0_0100 = .strbReg .al true true false 1 2 5 .lsr 4 := by decide

/-- R100, R101. -/
theorem test_decode_wide_block_and_swap :
    decodeWide 0b1110_100_1_1_1_0_1_0001_1000000000000011 = .ldm .al true true true false 1 0x8003 ∧
    decodeWide 0b1110_100_1_1_1_0_0_0001_1000000000000011 = .stm .al true true true false 1 0x8003 ∧
    decodeWide 0b1110_00010000_0001_0010_00001001_0100 = .swp .al 1 2 4 ∧
    decodeWide 0b1110_00010100_0001_0010_00001001_0100 = .swpb .al 1 2 4 := by decide

/-- R101. -/
theorem test_decode_wide_half_transfers :
    decodeWide 0b1110_000_1_1_1_0_1_0001_0010_1010_1011_0101 = .ldrhImm .al true true false 1 2 0xa5 ∧
    decodeWide 0b1110_000_1_1_0_0_1_0001_0010_00001011_0100 = .ldrhReg .al true true false 1 2 4 ∧
    decodeWide 0b1110_000_1_1_1_0_0_0001_0010_1010_1011_0101 = .strhImm .al true true false 1 2 0xa5 ∧
    decodeWide 0b1110_000_1_1_0_0_0_0001_0010_00001011_0100 = .strhReg .al true true false 1 2 4 ∧
    decodeWide 0b1110_000_1_1_1_0_1_0001_0010_1010_1101_0101 = .ldrsbImm .al true true false 1 2 0xa5 ∧
    decodeWide 0b1110_000_1_1_0_0_1_0001_0010_00001101_0100 = .ldrsbReg .al true true false 1 2 4 ∧
    decodeWide 0b1110_000_1_1_1_0_1_0001_0010_1010_1111_0101 = .ldrshImm .al true true false 1 2 0xa5 ∧
    decodeWide 0b1110_000_1_1_0_0_1_0001_0010_00001111_0100 = .ldrshReg .al true true false 1 2 4 := by decide

/-- R102. -/
theorem test_decode_wide_multiplies :
    decodeWide 0b1110_0000000_1_0010_0001_0011_1001_0100 = .mul .al true 2 1 3 4 ∧
    decodeWide 0b1110_0000001_1_0010_0001_0011_1001_0100 = .mla .al true 2 1 3 4 ∧
    decodeWide 0b1110_0000100_1_0010_0001_0011_1001_0100 = .umull .al true 2 1 3 4 ∧
    decodeWide 0b1110_0000101_1_0010_0001_0011_1001_0100 = .umlal .al true 2 1 3 4 ∧
    decodeWide 0b1110_0000110_1_0010_0001_0011_1001_0100 = .smull .al true 2 1 3 4 ∧
    decodeWide 0b1110_0000111_1_0010_0001_0011_1001_0100 = .smlal .al true 2 1 3 4 ∧
    decodeWide 0b1110_00010_10_0_0010_0001_0011_1_01_0_0100 = .mulhalf .al 2 1 3 4 2 1 := by decide

/-- R103. -/
theorem test_decode_wide_status_transfers :
    decodeWide 0b1110_00010_1_000000_0010_000000000000 = .mrs .al .spsr 2 ∧
    decodeWide 0b1110_00010_1_10_1001_000000000000_0100 = .msrReg .al .spsr 9 4 ∧
    decodeWide 0b1110_00110_1_10_1001_0000_0011_11000001 = .msrImm .al .spsr 9 3 0xc1 := by decide

/-- R104. -/
theorem test_decode_wide_data_processing_a :
    decodeWide 0b1110_0010000_1_0001_0010_0011_11000001 = .andImm .al true 1 2 3 0xc1 ∧
    decodeWide 0b1110_0000000_1_0001_0010_00101_01_0_0100 = .andShiftImm .al true 1 2 5 .lsr 4 ∧
    decodeWide 0b1110_0000000_1_0001_0010_0011_0_01_1_0100 = .andShiftReg .al true 1 2 3 .lsr 4 ∧
    decodeWide 0b1110_0010001_1_0001_0010_0011_11000001 = .eorImm .al true 1 2 3 0xc1 ∧
    decodeWide 0b1110_0000001_1_0001_0010_00101_01_0_0100 = .eorShiftImm .al true 1 2 5 .lsr 4 ∧
    decodeWide 0b1110_0000001_1_0001_0010_0011_0_01_1_0100 = .eorShiftReg .al true 1 2 3 .lsr 4 ∧
    decodeWide 0b1110_0010010_1_0001_0010_0011_11000001 = .subImm .al true 1 2 3 0xc1 ∧
    decodeWide 0b1110_0000010_1_0001_0010_00101_01_0_0100 = .subShiftImm .al true 1 2 5 .lsr 4 ∧
    decodeWide 0b1110_0000010_1_0001_0010_0011_0_01_1_0100 = .subShiftReg .al true 1 2 3 .lsr 4 ∧
    decodeWide 0b1110_0010011_1_0001_0010_0011_11000001 = .rsbImm .al true 1 2 3 0xc1 ∧
    decodeWide 0b1110_0000011_1_0001_0010_00101_01_0_0100 = .rsbShiftImm .al true 1 2 5 .lsr 4 ∧
    decodeWide 0b1110_0000011_1_0001_0010_0011_0_01_1_0100 = .rsbShiftReg .al true 1 2 3 .lsr 4 ∧
    decodeWide 0b1110_0010100_1_0001_0010_0011_11000001 = .addImm .al true 1 2 3 0xc1 ∧
    decodeWide 0b1110_0000100_1_0001_0010_00101_01_0_0100 = .addShiftImm .al true 1 2 5 .lsr 4 ∧
    decodeWide 0b1110_0000100_1_0001_0010_0011_0_01_1_0100 = .addShiftReg .al true 1 2 3 .lsr 4 := by decide

/-- R104. -/
theorem test_decode_wide_data_processing_b :
    decodeWide 0b1110_0010101_1_0001_0010_0011_11000001 = .adcImm .al true 1 2 3 0xc1 ∧
    decodeWide 0b1110_0000101_1_0001_0010_00101_01_0_0100 = .adcShiftImm .al true 1 2 5 .lsr 4 ∧
    decodeWide 0b1110_0000101_1_0001_0010_0011_0_01_1_0100 = .adcShiftReg .al true 1 2 3 .lsr 4 ∧
    decodeWide 0b1110_0010110_1_0001_0010_0011_11000001 = .sbcImm .al true 1 2 3 0xc1 ∧
    decodeWide 0b1110_0000110_1_0001_0010_00101_01_0_0100 = .sbcShiftImm .al true 1 2 5 .lsr 4 ∧
    decodeWide 0b1110_0000110_1_0001_0010_0011_0_01_1_0100 = .sbcShiftReg .al true 1 2 3 .lsr 4 ∧
    decodeWide 0b1110_0010111_1_0001_0010_0011_11000001 = .rscImm .al true 1 2 3 0xc1 ∧
    decodeWide 0b1110_0000111_1_0001_0010_00101_01_0_0100 = .rscShiftImm .al true 1 2 5 .lsr 4 ∧
    decodeWide 0b1110_0000111_1_0001_0010_0011_0_01_1_0100 = .rscShiftReg .al true 1 2 3 .lsr 4 ∧
    decodeWide 0b1110_0011000_1_0001_0010_0011_11000001 = .tstImm .al true 1 2 3 0xc1 ∧
    decodeWide 0b1110_0001000_1_0001_0010_00101_01_0_0100 = .tstShiftImm .al true 1 2 5 .lsr 4 ∧
    decodeWide 0b1110_0001000_1_0001_0010_0011_0_01_1_0100 = .tstShiftReg .al true 1 2 3 .lsr 4 ∧
    decodeWide 0b1110_0011001_1_0001_0010_0011_11000001 = .teqImm .al true 1 2 3 0xc1 ∧
    decodeWide 0b1110_0001001_1_0001_0010_00101_01_0_0100 = .teqShiftImm .al true 1 2 5 .lsr 4 ∧
    decodeWide 0b1110_0001001_1_0001_0010_0011_0_01_1_0100 = .teqShiftReg .al true 1 2 3 .lsr 4 := by decide

/-- R104. -/
theorem test_decode_wide_data_processing_c :
    decodeWide 0b1110_0011010_1_0001_0010_0011_11000001 = .cmpImm .al true 1 2 3 0xc1 ∧
    decodeWide 0b1110_0001010_1_0001_0010_00101_01_0_0100 = .cmpShiftImm .al true 1 2 5 .lsr 4 ∧
    decodeWide 0b1110_0001010_1_0001_0010_0011_0_01_1_0100 = .cmpShiftReg .al true 1 2 3 .lsr 4 ∧
    decodeWide 0b1110_0011011_1_0001_0010_0011_11000001 = .cmnImm .al true 1 2 3 0xc1 ∧
    decodeWide 0b1110_0001011_1_0001_0010_00101_01_0_0100 = .cmnShiftImm .al true 1 2 5 .lsr 4 ∧
    decodeWide 0b1110_0001011_1_0001_0010_0011_0_01_1_0100 = .cmnShiftReg .al true 1 2 3 .lsr 4 ∧
    decodeWide 0b1110_0011100_1_0001_0010_0011_11000001 = .orrImm .al true 1 2 3 0xc1 ∧
    decodeWide 0b1110_0001100_1_0001_0010_00101_01_0_0100 = .orrShiftImm .al true 1 2 5 .lsr 4 ∧
    decodeWide 0b1110_0001100_1_0001_0010_0011_0_01_1_0100 = .orrShiftReg .al true 1 2 3 .lsr 4 ∧
    decodeWide 0b1110_0011101_1_0001_0010_0011_11000001 = .movImm .al true 1 2 3 0xc1 ∧
    decodeWide 0b1110_0001101_1_0001_0010_00101_01_0_0100 = .movShiftImm .al true 1 2 5 .lsr 4 ∧
    decodeWide 0b1110_0001101_1_0001_0010_0011_0_01_1_0100 = .movShiftReg .al true 1 2 3 .lsr 4 ∧
    decodeWide 0b1110_0011110_1_0001_0010_0011_11000001 = .bicImm .al true 1 2 3 0xc1 ∧
    decodeWide 0b1110_0001110_1_0001_0010_00101_01_0_0100 = .bicShiftImm .al true 1 2 5 .lsr 4 ∧
    decodeWide 0b1110_0001110_1_0001_0010_0011_0_01_1_0100 = .bicShiftReg .al true 1 2 3 .lsr 4 ∧
    decodeWide 0b1110_0011111_1_0001_0010_0011_11000001 = .mvnImm .al true 1 2 3 0xc1 ∧
    decodeWide 0b1110_0001111_1_0001_0010_00101_01_0_0100 = .mvnShiftImm .al true 1 2 5 .lsr 4 ∧
    decodeWide 0b1110_0001111_1_0001_0010_0011_0_01_1_0100 = .mvnShiftReg .al true 1 2 3 .lsr 4 := by decide

/-- R105. -/
theorem test_decode_wide_undefined :
    decodeWide 0b1110_110_0000000000000000000000000 = .undefined .al ∧
    decodeWide 0b0000_1110_000000000000000000000000 = .undefined .eq := by decide

/-- R112 to R114. -/
theorem test_decode_compressed_1_to_3 :
    decodeCompressed 0b00000_10011_011_010 = .cLslImm 0x13 3 2 ∧
    decodeCompressed 0b00001_10011_011_010 = .cLsrImm 0x13 3 2 ∧
    decodeCompressed 0b00010_10011_011_010 = .cAsrImm 0x13 3 2 ∧
    decodeCompressed 0b0001100_011_101_010 = .cAddReg 3 5 2 ∧
    decodeCompressed 0b0001110_101_101_010 = .cAddImm3 5 5 2 ∧
    decodeCompressed 0b0001101_011_101_010 = .cSubReg 3 5 2 ∧
    decodeCompressed 0b0001111_101_101_010 = .cSubImm3 5 5 2 ∧
    decodeCompressed 0b00100_010_10100101 = .cMovImm8 2 0xa5 ∧
    decodeCompressed 0b00101_010_10100101 = .cCmpImm8 2 0xa5 ∧
    decodeCompressed 0b00110_010_10100101 = .cAddImm8 2 0xa5 ∧
    decodeCompressed 0b00111_010_10100101 = .cSubImm8 2 0xa5 := by decide

/-- R115. -/
theorem test_decode_compressed_4 :
    decodeCompressed 0b0100000000_110_010 = .cAnd 6 2 ∧
    decodeCompressed 0b0100000001_110_010 = .cEor 6 2 ∧
    decodeCompressed 0b0100000010_110_010 = .cLslReg 6 2 ∧
    decodeCompressed 0b0100000011_110_010 = .cLsrReg 6 2 ∧
    decodeCompressed 0b0100000100_110_010 = .cAsrReg 6 2 ∧
    decodeCompressed 0b0100000101_110_010 = .cAdc 6 2 ∧
    decodeCompressed 0b0100000110_110_010 = .cSbc 6 2 ∧
    decodeCompressed 0b0100000111_110_010 = .cRorReg 6 2 ∧
    decodeCompressed 0b0100001000_110_010 = .cTst 6 2 ∧
    decodeCompressed 0b0100001001_110_010 = .cNeg 6 2 ∧
    decodeCompressed 0b0100001010_110_010 = .cCmp 6 2 ∧
    decodeCompressed 0b0100001011_110_010 = .cCmn 6 2 ∧
    decodeCompressed 0b0100001100_110_010 = .cOrr 6 2 ∧
    decodeCompressed 0b0100001101_110_010 = .cMul 6 2 ∧
    decodeCompressed 0b0100001110_110_010 = .cBic 6 2 ∧
    decodeCompressed 0b0100001111_110_010 = .cMvn 6 2 := by decide

/-- R116 to R119. -/
theorem test_decode_compressed_5_to_8 :
    decodeCompressed 0b01000100_1_0_110_010 = .cAddHi 6 10 ∧
    decodeCompressed 0b01000101_1_0_110_010 = .cCmpHi 6 10 ∧
    decodeCompressed 0b01000110_1_0_110_010 = .cMovHi 6 10 ∧
    decodeCompressed 0b010001110_0_110_000 = .cBx 6 ∧
    decodeCompressed 0b01001_010_10100101 = .cLdrPc 2 0xa5 ∧
    decodeCompressed 0b0101000_011_101_010 = .cStrReg 3 5 2 ∧
    decodeCompressed 0b0101010_011_101_010 = .cStrbReg 3 5 2 ∧
    decodeCompressed 0b0101100_011_101_010 = .cLdrReg 3 5 2 ∧
    decodeCompressed 0b0101110_011_101_010 = .cLdrbReg 3 5 2 ∧
    decodeCompressed 0b0101001_011_101_010 = .cStrhReg 3 5 2 ∧
    decodeCompressed 0b0101011_011_101_010 = .cLdrsbReg 3 5 2 ∧
    decodeCompressed 0b0101101_011_101_010 = .cLdrhReg 3 5 2 ∧
    decodeCompressed 0b0101111_011_101_010 = .cLdrshReg 3 5 2 := by decide

/-- R120 to R124. -/
theorem test_decode_compressed_9_to_13 :
    decodeCompressed 0b01100_10011_101_010 = .cStrImm 0x13 5 2 ∧
    decodeCompressed 0b01101_10011_101_010 = .cLdrImm 0x13 5 2 ∧
    decodeCompressed 0b01110_10011_101_010 = .cStrbImm 0x13 5 2 ∧
    decodeCompressed 0b01111_10011_101_010 = .cLdrbImm 0x13 5 2 ∧
    decodeCompressed 0b10000_10011_101_010 = .cStrhImm 0x13 5 2 ∧
    decodeCompressed 0b10001_10011_101_010 = .cLdrhImm 0x13 5 2 ∧
    decodeCompressed 0b10010_010_10100101 = .cStrSp 2 0xa5 ∧
    decodeCompressed 0b10011_010_10100101 = .cLdrSp 2 0xa5 ∧
    decodeCompressed 0b10100_010_10100101 = .cAddPc 2 0xa5 ∧
    decodeCompressed 0b10101_010_10100101 = .cAddSp 2 0xa5 ∧
    decodeCompressed 0b101100000_1010011 = .cAddSpImm 0x53 ∧
    decodeCompressed 0b101100001_1010011 = .cSubSpImm 0x53 := by decide

/-- R125 to R131. -/
theorem test_decode_compressed_14_to_19 :
    decodeCompressed 0b1011010_1_10010101 = .cPush true 0x95 ∧
    decodeCompressed 0b1011110_1_10010101 = .cPop true 0x95 ∧
    decodeCompressed 0b11000_101_10010101 = .cStmia 5 0x95 ∧
    decodeCompressed 0b11001_101_10010101 = .cLdmia 5 0x95 ∧
    decodeCompressed 0b1101_0001_11111011 = .cBcond0 .ne 0xfb ∧
    decodeCompressed 0b1101_1001_11111011 = .cBcond8 .ls 0xfb ∧
    decodeCompressed 0b1101_1101_11111011 = .cBcondC .le 0xfb ∧
    decodeCompressed 0b11011111_10000001 = .cSwi 0x81 ∧
    decodeCompressed 0b10111110_10000001 = .cBkpt 0x81 ∧
    decodeCompressed 0b11100_10110100101 = .cB 0x5a5 ∧
    decodeCompressed 0b11110_10110100101 = .cBlh1 0x5a5 ∧
    decodeCompressed 0b11111_01011000011 = .cBlh2 0x2c3 ∧
    decodeCompressed 0b1011_0001_00000000 = .cUndefined ∧
    decodeCompressed 0b11011110_00000000 = .cUndefined ∧
    decodeCompressed 0b11101_00000000000 = .cUndefined := by decide

/-! ## One step, wide -/

/-- 95_test_vectors.md V115: `BX r0` (to compressed). -/
theorem test_bx_V115 :
    ends (exec (decodeWide 0xE12FFF10)
      (start 0x100 0x0000001F [(slot .sys 0, 0x201)] [] []))
      0x200 0x3F [] [] [] = true := by decide

/-- 95_test_vectors.md V116: `BX r0` (wide, bit 1 set). -/
theorem test_bx_V116 :
    ends (exec (decodeWide 0xE12FFF10)
      (start 0x100 0x0000001F [(slot .sys 0, 0x202)] [] []))
      0x200 0x0000001F [] [] [] = true := by decide

/-- 95_test_vectors.md V120: `SWI 0x123456` (User). -/
theorem test_swi_V120 :
    ends (exec (decodeWide 0xEF123456)
      (start 0x100 0x60000010 [] [] []))
      0x8 0x60000093 [(slot .svc 14, 0x104)] [(.svc, 0x60000010)] [] = true := by decide

/-- 95_test_vectors.md V124: `SWI in Supervisor mode` (nesting). -/
theorem test_swi_V124 :
    ends (exec (decodeWide 0xEF000000)
      (start 0x100 0x00000013 [(slot .svc 14, 0x999)] [(.svc, 0x1F)] []))
      0x8 0x93 [(slot .svc 14, 0x104)] [(.svc, 0x13)] [] = true := by decide

/-- 95_test_vectors.md V111: `B .` (offset -2, displacement -8). -/
theorem test_b_V111 :
    ends (exec (decodeWide 0xEAFFFFFE)
      (start 0x100 0x0000001F [] [] []))
      0x100 0x0000001F [] [] [] = true := by decide

/-- 95_test_vectors.md V113: `BNE taken`. -/
theorem test_b_V113 :
    ends (exec (decodeWide 0x1A000002)
      (start 0x100 0x0000001F [] [] []))
      0x110 0x0000001F [] [] [] = true := by decide

/-- 95_test_vectors.md V112: `BL 0x200`. -/
theorem test_bl_V112 :
    ends (exec (decodeWide 0xEB00003E)
      (start 0x100 0x0000001F [] [] []))
      0x200 0x0000001F [(slot .sys 14, 0x104)] [] [] = true := by decide

/-- 95_test_vectors.md V64: `LDR r0, [r1, #1]` (misaligned). -/
theorem test_ldrImm_V64 :
    ends (exec (decodeWide 0xE5910001)
      (start 0x100 0x0000001F [(slot .sys 1, 0x1000)] [] [(0x1000, .word, 0x11223344), (0x1004, .word, 0x8899AABB)]))
      0x104 0x0000001F [(slot .sys 0, 0x22334488)] [] [] = true := by decide

/-- 95_test_vectors.md V71: `LDR r1, [r1], #4` (rd = rn). -/
theorem test_ldrImm_V71 :
    ends (exec (decodeWide 0xE4911004)
      (start 0x100 0x0000001F [(slot .sys 1, 0x1000)] [] [(0x1000, .word, 0x11223344), (0x1004, .word, 0x8899AABB)]))
      0x104 0x0000001F [(slot .sys 1, 0x11223344)] [] [] = true := by decide

/-- 95_test_vectors.md V63: `LDR r0, [r1, r2, LSL #2]`. -/
theorem test_ldrReg_V63 :
    ends (exec (decodeWide 0xE7910102)
      (start 0x100 0x0000001F [(slot .sys 1, 0x1000), (slot .sys 2, 0x1)] [] [(0x1000, .word, 0x11223344), (0x1004, .word, 0x8899AABB)]))
      0x104 0x0000001F [(slot .sys 0, 0x8899AABB)] [] [] = true := by decide

/-- 95_test_vectors.md V68: `STR pc, [r1]`. -/
theorem test_strImm_V68 :
    ends (exec (decodeWide 0xE581F000)
      (start 0x100 0x0000001F [(slot .sys 1, 0x1000)] [] [(0x1000, .word, 0x11223344), (0x1004, .word, 0x8899AABB)]))
      0x104 0x0000001F [] [] [(0x1000, .word, 0x10C)] = true := by decide

/-- 95_test_vectors.md V66: `STR r0, [r1, #8]`. -/
theorem test_strImm_V66 :
    ends (exec (decodeWide 0xE5810008)
      (start 0x100 0x0000001F [(slot .sys 0, 0xCAFEBABE), (slot .sys 1, 0x1000)] [] [(0x1000, .word, 0x11223344), (0x1004, .word, 0x8899AABB)]))
      0x104 0x0000001F [] [] [(0x1008, .word, 0xCAFEBABE)] = true := by decide

/-- 95_test_vectors.md V65: `LDRB r0, [r1, #3]`. -/
theorem test_ldrbImm_V65 :
    ends (exec (decodeWide 0xE5D10003)
      (start 0x100 0x0000001F [(slot .sys 1, 0x1000)] [] [(0x1000, .word, 0x11223344), (0x1004, .word, 0x8899AABB)]))
      0x104 0x0000001F [(slot .sys 0, 0x44)] [] [] = true := by decide

/-- 95_test_vectors.md V67: `STRB r0, [r1], #1`. -/
theorem test_strbImm_V67 :
    ends (exec (decodeWide 0xE4C10001)
      (start 0x100 0x0000001F [(slot .sys 0, 0xCAFEBABE), (slot .sys 1, 0x1000)] [] [(0x1000, .word, 0x11223344), (0x1004, .word, 0x8899AABB)]))
      0x104 0x0000001F [(slot .sys 1, 0x1001)] [] [(0x1000, .byte, 0xBE)] = true := by decide

/-- 95_test_vectors.md V97: `LDMIA r0!, {r0, r1}` (base in list). -/
theorem test_ldm_V97 :
    ends (exec (decodeWide 0xE8B00003)
      (start 0x100 0x0000001F [(slot .sys 0, 0x1000)] [] [(0x1000, .word, 0x11), (0x1004, .word, 0x22), (0x1008, .word, 0x33), (0x100C, .word, 0x44)]))
      0x104 0x0000001F [(slot .sys 0, 0x11), (slot .sys 1, 0x22)] [] [] = true := by decide

/-- 95_test_vectors.md V108: `LDMIA r13!, {r0, pc}^` (exception return, Supervisor). -/
theorem test_ldm_V108 :
    ends (exec (decodeWide 0xE8FD8001)
      (start 0x100 0x000000D3 [(slot .svc 13, 0x1000)] [(.svc, 0x60000030)] [(0x1000, .word, 0x9), (0x1004, .word, 0x8000201)]))
      0x8000200 0x60000030 [(slot .svc 0, 0x9), (slot .svc 13, 0x1008)] [] [] = true := by decide

/-- 95_test_vectors.md V94: `STMIA r5!, {r0, r5}`. -/
theorem test_stm_V94 :
    ends (exec (decodeWide 0xE8A50021)
      (start 0x100 0x0000001F [(slot .sys 0, 0xA), (slot .sys 5, 0x2000)] [] []))
      0x104 0x0000001F [(slot .sys 5, 0x2008)] [] [(0x2000, .word, 0xA), (0x2004, .word, 0x2000)] = true := by decide

/-- 95_test_vectors.md V106: `STMIA r0, {r13, r14}^` (FIQ mode, user bank). -/
theorem test_stm_V106 :
    ends (exec (decodeWide 0xE8C06000)
      (start 0x100 0x000000D1 [(slot .fiq 0, 0x2000), (slot .usr 13, 0x111), (slot .usr 14, 0x222), (slot .fiq 13, 0x333), (slot .fiq 14, 0x444)] [] []))
      0x104 0x000000D1 [] [] [(0x2000, .word, 0x111), (0x2004, .word, 0x222)] = true := by decide

/-- 95_test_vectors.md V81: `SWPB r0, r2, [r1]`. -/
theorem test_swpb_V81 :
    ends (exec (decodeWide 0xE1410092)
      (start 0x100 0x0000001F [(slot .sys 1, 0x1003), (slot .sys 2, 0x1FF)] [] [(0x1000, .word, 0x11223344), (0x1004, .word, 0x8899AABB)]))
      0x104 0x0000001F [(slot .sys 0, 0x44)] [] [(0x1003, .byte, 0xFF)] = true := by decide

/-- 95_test_vectors.md V82: `SWP r0, r0, [r1]`. -/
theorem test_swp_V82 :
    ends (exec (decodeWide 0xE1010090)
      (start 0x100 0x0000001F [(slot .sys 0, 0x5), (slot .sys 1, 0x1000)] [] [(0x1000, .word, 0x11223344), (0x1004, .word, 0x8899AABB)]))
      0x104 0x0000001F [(slot .sys 0, 0x11223344)] [] [(0x1000, .word, 0x5)] = true := by decide

/-- 95_test_vectors.md V75: `LDRH r0, [r1, #2]`. -/
theorem test_ldrhImm_V75 :
    ends (exec (decodeWide 0xE1D100B2)
      (start 0x100 0x0000001F [(slot .sys 1, 0x1000)] [] [(0x1000, .word, 0x11223344), (0x1004, .word, 0x8899AABB)]))
      0x104 0x0000001F [(slot .sys 0, 0x3344)] [] [] = true := by decide

/-- 95_test_vectors.md V79: `LDRH r0, [r1], #2`. -/
theorem test_ldrhImm_V79 :
    ends (exec (decodeWide 0xE0D100B2)
      (start 0x100 0x0000001F [(slot .sys 1, 0x1001)] [] [(0x1000, .word, 0x11223344), (0x1004, .word, 0x8899AABB)]))
      0x104 0x0000001F [(slot .sys 0, 0x2233), (slot .sys 1, 0x1003)] [] [] = true := by decide

/-- 95_test_vectors.md V78: `STRH r0, [r1, #-2]!`. -/
theorem test_strhImm_V78 :
    ends (exec (decodeWide 0xE16100B2)
      (start 0x100 0x0000001F [(slot .sys 0, 0xCAFEBABE), (slot .sys 1, 0x1002)] [] [(0x1000, .word, 0x11223344), (0x1004, .word, 0x8899AABB)]))
      0x104 0x0000001F [(slot .sys 1, 0x1000)] [] [(0x1000, .half, 0xBABE)] = true := by decide

/-- 95_test_vectors.md V77: `LDRSB r0, [r1, r2]`. -/
theorem test_ldrsbReg_V77 :
    ends (exec (decodeWide 0xE19100D2)
      (start 0x100 0x0000001F [(slot .sys 1, 0x1000), (slot .sys 2, 0x5)] [] [(0x1000, .word, 0x11223344), (0x1004, .word, 0x8899AABB)]))
      0x104 0x0000001F [(slot .sys 0, 0xFFFFFF99)] [] [] = true := by decide

/-- 95_test_vectors.md V76: `LDRSH r0, [r1, #4]`. -/
theorem test_ldrshImm_V76 :
    ends (exec (decodeWide 0xE1D100F4)
      (start 0x100 0x0000001F [(slot .sys 1, 0x1000)] [] [(0x1000, .word, 0x11223344), (0x1004, .word, 0x8899AABB)]))
      0x104 0x0000001F [(slot .sys 0, 0xFFFF8899)] [] [] = true := by decide

/-- 95_test_vectors.md V42: `MLA r0, r1, r2, r3`. -/
theorem test_mla_V42 :
    ends (exec (decodeWide 0xE0203291)
      (start 0x100 0x0000001F [(slot .sys 1, 0x6), (slot .sys 2, 0x7), (slot .sys 3, 0xFFFFFFFF)] [] []))
      0x104 0x0000001F [(slot .sys 0, 0x29)] [] [] = true := by decide

/-- 95_test_vectors.md V43: `UMULL r0, r1, r2, r3`. -/
theorem test_umull_V43 :
    ends (exec (decodeWide 0xE0810392)
      (start 0x100 0x0000001F [(slot .sys 2, 0xFFFFFFFF), (slot .sys 3, 0xFFFFFFFF)] [] []))
      0x104 0x0000001F [(slot .sys 0, 0x1), (slot .sys 1, 0xFFFFFFFE)] [] [] = true := by decide

/-- 95_test_vectors.md V46: `UMLAL r0, r1, r2, r3`. -/
theorem test_umlal_V46 :
    ends (exec (decodeWide 0xE0A10392)
      (start 0x100 0x0000001F [(slot .sys 0, 0xFFFFFFFF), (slot .sys 1, 0x0), (slot .sys 2, 0x1), (slot .sys 3, 0x1)] [] []))
      0x104 0x0000001F [(slot .sys 0, 0x0), (slot .sys 1, 0x1)] [] [] = true := by decide

/-- 95_test_vectors.md V44: `SMULL r0, r1, r2, r3`. -/
theorem test_smull_V44 :
    ends (exec (decodeWide 0xE0C10392)
      (start 0x100 0x0000001F [(slot .sys 2, 0xFFFFFFFF), (slot .sys 3, 0xFFFFFFFF)] [] []))
      0x104 0x0000001F [(slot .sys 0, 0x1), (slot .sys 1, 0x0)] [] [] = true := by decide

/-- 95_test_vectors.md V47: `SMLAL r0, r1, r2, r3`. -/
theorem test_smlal_V47 :
    ends (exec (decodeWide 0xE0E10392)
      (start 0x100 0x0000001F [(slot .sys 0, 0x1), (slot .sys 1, 0x0), (slot .sys 2, 0xFFFFFFFF), (slot .sys 3, 0x1)] [] []))
      0x104 0x0000001F [(slot .sys 0, 0x0), (slot .sys 1, 0x0)] [] [] = true := by decide

/-- 95_test_vectors.md V51: `MRS r0, SPSR`. -/
theorem test_mrs_V51 :
    ends (exec (decodeWide 0xE14F0000)
      (start 0x100 0x000000D3 [] [(.svc, 0x80000030)] []))
      0x104 0x000000D3 [(slot .svc 0, 0x80000030)] [] [] = true := by decide

/-- 95_test_vectors.md V54: `MSR CPSR_fc, r0` (User). -/
theorem test_msrReg_V54 :
    ends (exec (decodeWide 0xE129F000)
      (start 0x100 0x00000010 [(slot .usr 0, 0xF00000DF)] [] []))
      0x104 0xF0000010 [] [] [] = true := by decide

/-- 95_test_vectors.md V56: `MSR CPSR_c, r0` (mode bits 0x00). -/
theorem test_msrReg_V56 :
    ends (exec (decodeWide 0xE121F000)
      (start 0x100 0x000000D3 [(slot .svc 0, 0x0)] [] []))
      0x104 0x10 [] [] [] = true := by decide

/-- 95_test_vectors.md V53: `MSR CPSR_f, #0xF0000000`. -/
theorem test_msrImm_V53 :
    ends (exec (decodeWide 0xE328F20F)
      (start 0x100 0x00000010 [] [] []))
      0x104 0xF0000010 [] [] [] = true := by decide

/-- 95_test_vectors.md V11: `ANDS r0, r1, r2, LSR #1`. -/
theorem test_andShiftImm_V11 :
    ends (exec (decodeWide 0xE01100A2)
      (start 0x100 0x1000001F [(slot .sys 1, 0xFF), (slot .sys 2, 0x3)] [] []))
      0x104 0x3000001F [(slot .sys 0, 0x1)] [] [] = true := by decide

/-- 95_test_vectors.md V12: `EORS r0, r1, r1`. -/
theorem test_eorShiftImm_V12 :
    ends (exec (decodeWide 0xE0310001)
      (start 0x100 0x0000001F [(slot .sys 1, 0x1234)] [] []))
      0x104 0x4000001F [(slot .sys 0, 0x0)] [] [] = true := by decide

/-- 95_test_vectors.md V126: `SUBS pc, lr, #4`. -/
theorem test_subImm_V126 :
    ends (exec (decodeWide 0xE25EF004)
      (start 0x8 0x00000093 [(slot .svc 14, 0x8000204)] [(.svc, 0x10)] []))
      0x8000200 0x10 [] [] [] = true := by decide

/-- 95_test_vectors.md V5: `SUBS r0, r1, r2`. -/
theorem test_subShiftImm_V5 :
    ends (exec (decodeWide 0xE0510002)
      (start 0x100 0x0000001F [(slot .sys 1, 0x0), (slot .sys 2, 0x1)] [] []))
      0x104 0x8000001F [(slot .sys 0, 0xFFFFFFFF)] [] [] = true := by decide

/-- 95_test_vectors.md V6: `SUBS r0, r1, r2`. -/
theorem test_subShiftImm_V6 :
    ends (exec (decodeWide 0xE0510002)
      (start 0x100 0x0000001F [(slot .sys 1, 0x80000000), (slot .sys 2, 0x1)] [] []))
      0x104 0x3000001F [(slot .sys 0, 0x7FFFFFFF)] [] [] = true := by decide

/-- 95_test_vectors.md V7: `RSBS r0, r1, #0`. -/
theorem test_rsbImm_V7 :
    ends (exec (decodeWide 0xE2710000)
      (start 0x100 0x0000001F [(slot .sys 1, 0x1)] [] []))
      0x104 0x8000001F [(slot .sys 0, 0xFFFFFFFF)] [] [] = true := by decide

/-- 95_test_vectors.md V33: `ADD pc, pc, #4`. -/
theorem test_addImm_V33 :
    ends (exec (decodeWide 0xE28FF004)
      (start 0x100 0x0000001F [] [] []))
      0x10C 0x0000001F [] [] [] = true := by decide

/-- 95_test_vectors.md V2: `ADDS r0, r1, r2`. -/
theorem test_addShiftImm_V2 :
    ends (exec (decodeWide 0xE0910002)
      (start 0x100 0x0000001F [(slot .sys 1, 0x7FFFFFFF), (slot .sys 2, 0x1)] [] []))
      0x104 0x9000001F [(slot .sys 0, 0x80000000)] [] [] = true := by decide

/-- 95_test_vectors.md V37: `(cond 1111) ADD r0, r1, r2`. -/
theorem test_addShiftImm_V37 :
    ends (exec (decodeWide 0xF0810002)
      (start 0x100 0x0000001F [(slot .sys 1, 0x1), (slot .sys 2, 0x2)] [] []))
      0x104 0x0000001F [] [] [] = true := by decide

/-- 95_test_vectors.md V8: `ADCS r0, r1, r2`. -/
theorem test_adcShiftImm_V8 :
    ends (exec (decodeWide 0xE0B10002)
      (start 0x100 0x2000001F [(slot .sys 1, 0xFFFFFFFF), (slot .sys 2, 0x0)] [] []))
      0x104 0x6000001F [(slot .sys 0, 0x0)] [] [] = true := by decide

/-- 95_test_vectors.md V9: `SBCS r0, r1, r2`. -/
theorem test_sbcShiftImm_V9 :
    ends (exec (decodeWide 0xE0D10002)
      (start 0x100 0x0000001F [(slot .sys 1, 0x5), (slot .sys 2, 0x3)] [] []))
      0x104 0x2000001F [(slot .sys 0, 0x1)] [] [] = true := by decide

/-- 95_test_vectors.md V10: `RSCS r0, r1, r2`. -/
theorem test_rscShiftImm_V10 :
    ends (exec (decodeWide 0xE0F10002)
      (start 0x100 0x2000001F [(slot .sys 1, 0x3), (slot .sys 2, 0x5)] [] []))
      0x104 0x2000001F [(slot .sys 0, 0x2)] [] [] = true := by decide

/-- 95_test_vectors.md V27: `TST r1, #1`. -/
theorem test_tstImm_V27 :
    ends (exec (decodeWide 0xE3110001)
      (start 0x100 0x2000001F [(slot .sys 1, 0x2)] [] []))
      0x104 0x6000001F [] [] [] = true := by decide

/-- 95_test_vectors.md V39: `TST r1, #1 with S = 0` (U5). -/
theorem test_tstImm_V39 :
    ends (exec (decodeWide 0xE3010001)
      (start 0x100 0x0000001F [(slot .sys 1, 0x1)] [] []))
      0x104 0x0000001F [] [] [] = true := by decide

/-- 95_test_vectors.md V28: `TEQ r1, r2`. -/
theorem test_teqShiftImm_V28 :
    ends (exec (decodeWide 0xE1310002)
      (start 0x100 0x0000001F [(slot .sys 1, 0x80000000), (slot .sys 2, 0x0)] [] []))
      0x104 0x8000001F [] [] [] = true := by decide

/-- 95_test_vectors.md V29: `CMP r1, #1`. -/
theorem test_cmpImm_V29 :
    ends (exec (decodeWide 0xE3510001)
      (start 0x100 0x0000001F [(slot .sys 1, 0x1)] [] []))
      0x104 0x6000001F [] [] [] = true := by decide

/-- 95_test_vectors.md V30: `CMN r1, #1`. -/
theorem test_cmnImm_V30 :
    ends (exec (decodeWide 0xE3710001)
      (start 0x100 0x0000001F [(slot .sys 1, 0xFFFFFFFF)] [] []))
      0x104 0x6000001F [] [] [] = true := by decide

/-- 95_test_vectors.md V13: `ORRS r0, r1, #0x80000000`. -/
theorem test_orrImm_V13 :
    ends (exec (decodeWide 0xE3910102)
      (start 0x100 0x0000001F [(slot .sys 1, 0x1)] [] []))
      0x104 0xA000001F [(slot .sys 0, 0x80000001)] [] [] = true := by decide

/-- 95_test_vectors.md V38: `MOVS r0, #0xFF000000`. -/
theorem test_movImm_V38 :
    ends (exec (decodeWide 0xE3B004FF)
      (start 0x100 0x0000001F [] [] []))
      0x104 0xA000001F [(slot .sys 0, 0xFF000000)] [] [] = true := by decide

/-- 95_test_vectors.md V17: `MOVS r0, r1, RRX`. -/
theorem test_movShiftImm_V17 :
    ends (exec (decodeWide 0xE1B00061)
      (start 0x100 0x2000001F [(slot .sys 1, 0x1)] [] []))
      0x104 0xA000001F [(slot .sys 0, 0x80000000)] [] [] = true := by decide

/-- 95_test_vectors.md V125: `MOVS pc, lr` (Supervisor). -/
theorem test_movShiftImm_V125 :
    ends (exec (decodeWide 0xE1B0F00E)
      (start 0x8 0x00000093 [(slot .svc 14, 0x8000202)] [(.svc, 0x60000030)] []))
      0x8000202 0x60000030 [] [] [] = true := by decide

/-- 95_test_vectors.md V21: `MOVS r0, r1, LSL r2`. -/
theorem test_movShiftReg_V21 :
    ends (exec (decodeWide 0xE1B00211)
      (start 0x100 0x2000001F [(slot .sys 1, 0x1), (slot .sys 2, 0x21)] [] []))
      0x104 0x4000001F [(slot .sys 0, 0x0)] [] [] = true := by decide

/-- 95_test_vectors.md V32: `MOV r0, pc, LSL r2`. -/
theorem test_movShiftReg_V32 :
    ends (exec (decodeWide 0xE1A0021F)
      (start 0x100 0x0000001F [(slot .sys 2, 0x0)] [] []))
      0x104 0x0000001F [(slot .sys 0, 0x10C)] [] [] = true := by decide

/-- 95_test_vectors.md V14: `BICS r0, r1, #0xFF`. -/
theorem test_bicImm_V14 :
    ends (exec (decodeWide 0xE3D100FF)
      (start 0x100 0x2000001F [(slot .sys 1, 0x1FF)] [] []))
      0x104 0x2000001F [(slot .sys 0, 0x100)] [] [] = true := by decide

/-- 95_test_vectors.md V26: `MVN r0, #0`. -/
theorem test_mvnImm_V26 :
    ends (exec (decodeWide 0xE3E00000)
      (start 0x100 0x0000001F [] [] []))
      0x104 0x0000001F [(slot .sys 0, 0xFFFFFFFF)] [] [] = true := by decide

/-- 95_test_vectors.md V122: `UNDEFINED` (coprocessor space). -/
theorem test_undefined_V122 :
    ends (exec (decodeWide 0xEE000000)
      (start 0x100 0x0000001F [] [] []))
      0x4 0x9B [(slot .und 14, 0x104)] [(.und, 0x1F)] [] = true := by decide

/-- R242, by hand. -/
theorem test_strReg_hand :
    ends (exec (.strReg .al true true false 1 0 3 .lsl 2)
      (start 0x100 0x0000001F [(slot .sys 0, 0xCAFEBABE), (slot .sys 1, 0x1000), (slot .sys 2, 0x2)] [] []))
      0x104 0x0000001F [] [] [(0x1010, .word, 0xCAFEBABE)] = true := by decide

/-- R243, by hand. -/
theorem test_ldrbReg_hand :
    ends (exec (.ldrbReg .al true false true 1 0 0 .lsl 2)
      (start 0x100 0x0000001F [(slot .sys 1, 0x1003), (slot .sys 2, 0x1)] [] [(0x1000, .word, 0x11223344)]))
      0x104 0x0000001F [(slot .sys 0, 0x33), (slot .sys 1, 0x1002)] [] [] = true := by decide

/-- R244, by hand. -/
theorem test_strbReg_hand :
    ends (exec (.strbReg .al false true false 1 0 0 .lsl 2)
      (start 0x100 0x0000001F [(slot .sys 0, 0x1FF), (slot .sys 1, 0x1001), (slot .sys 2, 0x10)] [] [(0x1000, .word, 0x11223344)]))
      0x104 0x0000001F [(slot .sys 1, 0x1011)] [] [(0x1000, .word, 0x11FF3344)] = true := by decide

/-- R251, by hand. -/
theorem test_ldrhReg_hand :
    ends (exec (.ldrhReg .al true true false 1 0 2)
      (start 0x100 0x0000001F [(slot .sys 1, 0x1000), (slot .sys 2, 0x4)] [] [(0x1004, .word, 0x8899AABB)]))
      0x104 0x0000001F [(slot .sys 0, 0x8899)] [] [] = true := by decide

/-- R252, by hand. -/
theorem test_strhReg_hand :
    ends (exec (.strhReg .al true false false 1 0 2)
      (start 0x100 0x0000001F [(slot .sys 0, 0xCAFEBABE), (slot .sys 1, 0x1004), (slot .sys 2, 0x2)] [] [(0x1000, .word, 0x11223344)]))
      0x104 0x0000001F [] [] [(0x1000, .word, 0x1122BABE)] = true := by decide

/-- R253, by hand. -/
theorem test_ldrsbImm_hand :
    ends (exec (.ldrsbImm .al true true false 1 0 4)
      (start 0x100 0x0000001F [(slot .sys 1, 0x1000)] [] [(0x1004, .word, 0x8899AABB)]))
      0x104 0x0000001F [(slot .sys 0, 0xFFFFFF88)] [] [] = true := by decide

/-- R254, by hand. -/
theorem test_ldrshReg_hand :
    ends (exec (.ldrshReg .al false true false 1 0 2)
      (start 0x100 0x0000001F [(slot .sys 1, 0x1004), (slot .sys 2, 0x20)] [] [(0x1004, .word, 0x8899AABB)]))
      0x104 0x0000001F [(slot .sys 0, 0xFFFF8899), (slot .sys 1, 0x1024)] [] [] = true := by decide

/-- R182, by hand. -/
theorem test_andImm_hand :
    ends (exec (.andImm .al true 1 0 0 0xFF)
      (start 0x100 0x2000001F [(slot .sys 1, 0xF00)] [] []))
      0x104 0x6000001F [(slot .sys 0, 0x0)] [] [] = true := by decide

/-- R182, by hand. -/
theorem test_andShiftReg_hand :
    ends (exec (.andShiftReg .al false 1 0 3 .lsl 2)
      (start 0x100 0x0000001F [(slot .sys 1, 0xFF), (slot .sys 2, 0x1), (slot .sys 3, 0x4)] [] []))
      0x104 0x0000001F [(slot .sys 0, 0x10)] [] [] = true := by decide

/-- R183, by hand. -/
theorem test_eorImm_hand :
    ends (exec (.eorImm .al false 1 0 0 0xF0)
      (start 0x100 0x0000001F [(slot .sys 1, 0xFF)] [] []))
      0x104 0x0000001F [(slot .sys 0, 0xF)] [] [] = true := by decide

/-- R183, by hand. -/
theorem test_eorShiftReg_hand :
    ends (exec (.eorShiftReg .al true 1 0 3 .lsr 2)
      (start 0x100 0x0000001F [(slot .sys 1, 0x0), (slot .sys 2, 0x18), (slot .sys 3, 0x4)] [] []))
      0x104 0x2000001F [(slot .sys 0, 0x1)] [] [] = true := by decide

/-- R184, by hand. -/
theorem test_subShiftReg_hand :
    ends (exec (.subShiftReg .al false 1 0 3 .lsl 2)
      (start 0x100 0x0000001F [(slot .sys 1, 0x100), (slot .sys 2, 0x1), (slot .sys 3, 0x4)] [] []))
      0x104 0x0000001F [(slot .sys 0, 0xF0)] [] [] = true := by decide

/-- R185, by hand. -/
theorem test_rsbShiftImm_hand :
    ends (exec (.rsbShiftImm .al true 1 0 4 .lsl 2)
      (start 0x100 0x0000001F [(slot .sys 1, 0x1), (slot .sys 2, 0x1)] [] []))
      0x104 0x2000001F [(slot .sys 0, 0xF)] [] [] = true := by decide

/-- R185, by hand. -/
theorem test_rsbShiftReg_hand :
    ends (exec (.rsbShiftReg .al true 1 0 3 .lsl 2)
      (start 0x100 0x0000001F [(slot .sys 1, 0x2), (slot .sys 2, 0x1), (slot .sys 3, 0x0)] [] []))
      0x104 0x8000001F [(slot .sys 0, 0xFFFFFFFF)] [] [] = true := by decide

/-- R186, by hand. -/
theorem test_addShiftReg_hand :
    ends (exec (.addShiftReg .eq false 12 10 0 .lsl 5)
      (start 0x100 0x4000001F [(slot .sys 12, 0x5), (slot .sys 5, 0x7), (slot .sys 0, 0x1)] [] []))
      0x104 0x4000001F [(slot .sys 10, 0x13)] [] [] = true := by decide

/-- R187, by hand. -/
theorem test_adcImm_hand :
    ends (exec (.adcImm .al false 1 0 0 1)
      (start 0x100 0x2000001F [(slot .sys 1, 0x1)] [] []))
      0x104 0x2000001F [(slot .sys 0, 0x3)] [] [] = true := by decide

/-- R187, by hand. -/
theorem test_adcShiftReg_hand :
    ends (exec (.adcShiftReg .al false 1 0 3 .lsl 2)
      (start 0x100 0x2000001F [(slot .sys 1, 0x1), (slot .sys 2, 0x1), (slot .sys 3, 0x4)] [] []))
      0x104 0x2000001F [(slot .sys 0, 0x12)] [] [] = true := by decide

/-- R188, by hand. -/
theorem test_sbcImm_hand :
    ends (exec (.sbcImm .al true 1 0 0 1)
      (start 0x100 0x0000001F [(slot .sys 1, 0x1)] [] []))
      0x104 0x8000001F [(slot .sys 0, 0xFFFFFFFF)] [] [] = true := by decide

/-- R188, by hand. -/
theorem test_sbcShiftReg_hand :
    ends (exec (.sbcShiftReg .al false 1 0 3 .lsl 2)
      (start 0x100 0x2000001F [(slot .sys 1, 0x10), (slot .sys 2, 0x1), (slot .sys 3, 0x2)] [] []))
      0x104 0x2000001F [(slot .sys 0, 0xC)] [] [] = true := by decide

/-- R189, by hand. -/
theorem test_rscImm_hand :
    ends (exec (.rscImm .al true 1 0 0 5)
      (start 0x100 0x0000001F [(slot .sys 1, 0x3)] [] []))
      0x104 0x2000001F [(slot .sys 0, 0x1)] [] [] = true := by decide

/-- R189, by hand. -/
theorem test_rscShiftReg_hand :
    ends (exec (.rscShiftReg .al false 1 0 3 .lsl 2)
      (start 0x100 0x2000001F [(slot .sys 1, 0x3), (slot .sys 2, 0x1), (slot .sys 3, 0x3)] [] []))
      0x104 0x2000001F [(slot .sys 0, 0x5)] [] [] = true := by decide

/-- R190, by hand. -/
theorem test_tstShiftImm_hand :
    ends (exec (.tstShiftImm .al true 1 0 31 .lsl 2)
      (start 0x100 0x0000001F [(slot .sys 1, 0x80000000), (slot .sys 2, 0x3), (slot .sys 0, 0x9)] [] []))
      0x104 0xA000001F [(slot .sys 0, 0x9)] [] [] = true := by decide

/-- R190, by hand. -/
theorem test_tstShiftReg_hand :
    ends (exec (.tstShiftReg .al true 1 0 3 .lsl 2)
      (start 0x100 0x0000001F [(slot .sys 1, 0x1), (slot .sys 2, 0x1), (slot .sys 3, 0x1)] [] []))
      0x104 0x4000001F [] [] [] = true := by decide

/-- R191, by hand. -/
theorem test_teqImm_hand :
    ends (exec (.teqImm .al true 1 0 0 1)
      (start 0x100 0x2000001F [(slot .sys 1, 0x1)] [] []))
      0x104 0x6000001F [] [] [] = true := by decide

/-- R191, by hand. -/
theorem test_teqShiftReg_hand :
    ends (exec (.teqShiftReg .al true 1 0 3 .ror 2)
      (start 0x100 0x0000001F [(slot .sys 1, 0x80000000), (slot .sys 2, 0x1), (slot .sys 3, 0x1)] [] []))
      0x104 0x6000001F [] [] [] = true := by decide

/-- R192, by hand. -/
theorem test_cmpShiftImm_hand :
    ends (exec (.cmpShiftImm .al true 1 0 1 .lsl 2)
      (start 0x100 0x0000001F [(slot .sys 1, 0x5), (slot .sys 2, 0x2)] [] []))
      0x104 0x2000001F [] [] [] = true := by decide

/-- R192, by hand. -/
theorem test_cmpShiftReg_hand :
    ends (exec (.cmpShiftReg .al true 1 0 3 .lsl 2)
      (start 0x100 0x0000001F [(slot .sys 1, 0x80000000), (slot .sys 2, 0x1), (slot .sys 3, 0x0)] [] []))
      0x104 0x3000001F [] [] [] = true := by decide

/-- R193, by hand. -/
theorem test_cmnShiftImm_hand :
    ends (exec (.cmnShiftImm .al true 1 0 4 .lsl 2)
      (start 0x100 0x0000001F [(slot .sys 1, 0x7FFFFFFF), (slot .sys 2, 0x1)] [] []))
      0x104 0x9000001F [] [] [] = true := by decide

/-- R193, by hand. -/
theorem test_cmnShiftReg_hand :
    ends (exec (.cmnShiftReg .al true 1 0 3 .asr 2)
      (start 0x100 0x0000001F [(slot .sys 1, 0x1), (slot .sys 2, 0x80000000), (slot .sys 3, 0x1F)] [] []))
      0x104 0x6000001F [] [] [] = true := by decide

/-- R194, by hand. -/
theorem test_orrShiftImm_hand :
    ends (exec (.orrShiftImm .al false 1 0 8 .lsl 2)
      (start 0x100 0x0000001F [(slot .sys 1, 0x1), (slot .sys 2, 0x1)] [] []))
      0x104 0x0000001F [(slot .sys 0, 0x101)] [] [] = true := by decide

/-- R194, by hand. -/
theorem test_orrShiftReg_hand :
    ends (exec (.orrShiftReg .al false 1 0 3 .lsl 2)
      (start 0x100 0x0000001F [(slot .sys 1, 0x1), (slot .sys 2, 0x1), (slot .sys 3, 0x10)] [] []))
      0x104 0x0000001F [(slot .sys 0, 0x10001)] [] [] = true := by decide

/-- R196, by hand. -/
theorem test_bicShiftImm_hand :
    ends (exec (.bicShiftImm .al false 1 0 4 .lsl 2)
      (start 0x100 0x0000001F [(slot .sys 1, 0xFF), (slot .sys 2, 0xF)] [] []))
      0x104 0x0000001F [(slot .sys 0, 0xF)] [] [] = true := by decide

/-- R196, by hand. -/
theorem test_bicShiftReg_hand :
    ends (exec (.bicShiftReg .al false 1 0 3 .lsl 2)
      (start 0x100 0x0000001F [(slot .sys 1, 0xFF), (slot .sys 2, 0x3), (slot .sys 3, 0x4)] [] []))
      0x104 0x0000001F [(slot .sys 0, 0xCF)] [] [] = true := by decide

/-- R198, by hand. -/
theorem test_mvnShiftImm_hand :
    ends (exec (.mvnShiftImm .al true 0 0 1 .lsr 2)
      (start 0x100 0x0000001F [(slot .sys 2, 0x1)] [] []))
      0x104 0xA000001F [(slot .sys 0, 0xFFFFFFFF)] [] [] = true := by decide

/-- R198, by hand. -/
theorem test_mvnShiftReg_hand :
    ends (exec (.mvnShiftReg .al false 0 0 3 .lsl 2)
      (start 0x100 0x0000001F [(slot .sys 2, 0xF), (slot .sys 3, 0x4)] [] []))
      0x104 0x0000001F [(slot .sys 0, 0xFFFFFF0F)] [] [] = true := by decide

/-! ## One step, compressed -/

/-- 95_test_vectors.md V130: `LSL r0, r1, #4`. -/
theorem test_cLslImm_V130 :
    ends (exec (decodeCompressed 0x0108)
      (start 0x100 0x0000003F [(slot .sys 1, 0xF0000001)] [] []))
      0x102 0x2000003F [(slot .sys 0, 0x10)] [] [] = true := by decide

/-- 95_test_vectors.md V131: `LSL r0, r1, #0`. -/
theorem test_cLslImm_V131 :
    ends (exec (decodeCompressed 0x0008)
      (start 0x100 0x2000003F [(slot .sys 1, 0x80000000)] [] []))
      0x102 0xA000003F [(slot .sys 0, 0x80000000)] [] [] = true := by decide

/-- 95_test_vectors.md V132: `LSR r0, r1, #0` (= #32). -/
theorem test_cLsrImm_V132 :
    ends (exec (decodeCompressed 0x0808)
      (start 0x100 0x0000003F [(slot .sys 1, 0x80000000)] [] []))
      0x102 0x6000003F [(slot .sys 0, 0x0)] [] [] = true := by decide

/-- 95_test_vectors.md V133: `ASR r0, r1, #0` (= #32). -/
theorem test_cAsrImm_V133 :
    ends (exec (decodeCompressed 0x1008)
      (start 0x100 0x0000003F [(slot .sys 1, 0x80000000)] [] []))
      0x102 0xA000003F [(slot .sys 0, 0xFFFFFFFF)] [] [] = true := by decide

/-- 95_test_vectors.md V134: `ADD r0, r1, r2`. -/
theorem test_cAddReg_V134 :
    ends (exec (decodeCompressed 0x1888)
      (start 0x100 0x0000003F [(slot .sys 1, 0x7FFFFFFF), (slot .sys 2, 0x1)] [] []))
      0x102 0x9000003F [(slot .sys 0, 0x80000000)] [] [] = true := by decide

/-- 95_test_vectors.md V135: `SUB r0, r1, #7`. -/
theorem test_cSubImm3_V135 :
    ends (exec (decodeCompressed 0x1FC8)
      (start 0x100 0x0000003F [(slot .sys 1, 0x7)] [] []))
      0x102 0x6000003F [(slot .sys 0, 0x0)] [] [] = true := by decide

/-- 95_test_vectors.md V136: `MOV r0, #0`. -/
theorem test_cMovImm8_V136 :
    ends (exec (decodeCompressed 0x2000)
      (start 0x100 0x3000003F [] [] []))
      0x102 0x7000003F [(slot .sys 0, 0x0)] [] [] = true := by decide

/-- 95_test_vectors.md V137: `CMP r0, #5`. -/
theorem test_cCmpImm8_V137 :
    ends (exec (decodeCompressed 0x2805)
      (start 0x100 0x0000003F [(slot .sys 0, 0x3)] [] []))
      0x102 0x8000003F [] [] [] = true := by decide

/-- 95_test_vectors.md V138: `ADD r0, #255`. -/
theorem test_cAddImm8_V138 :
    ends (exec (decodeCompressed 0x30FF)
      (start 0x100 0x0000003F [(slot .sys 0, 0xFFFFFF01)] [] []))
      0x102 0x6000003F [(slot .sys 0, 0x0)] [] [] = true := by decide

/-- 95_test_vectors.md V139: `SUB r0, #1`. -/
theorem test_cSubImm8_V139 :
    ends (exec (decodeCompressed 0x3801)
      (start 0x100 0x0000003F [(slot .sys 0, 0x0)] [] []))
      0x102 0x8000003F [(slot .sys 0, 0xFFFFFFFF)] [] [] = true := by decide

/-- 95_test_vectors.md V140: `AND r0, r1`. -/
theorem test_cAnd_V140 :
    ends (exec (decodeCompressed 0x4008)
      (start 0x100 0x0000003F [(slot .sys 0, 0xF0), (slot .sys 1, 0x3C)] [] []))
      0x102 0x0000003F [(slot .sys 0, 0x30)] [] [] = true := by decide

/-- 95_test_vectors.md V141: `LSL r0, r1` (amount 32). -/
theorem test_cLslReg_V141 :
    ends (exec (decodeCompressed 0x4088)
      (start 0x100 0x0000003F [(slot .sys 0, 0x1), (slot .sys 1, 0x20)] [] []))
      0x102 0x6000003F [(slot .sys 0, 0x0)] [] [] = true := by decide

/-- 95_test_vectors.md V142: `LSR r0, r1` (amount 0). -/
theorem test_cLsrReg_V142 :
    ends (exec (decodeCompressed 0x40C8)
      (start 0x100 0x2000003F [(slot .sys 0, 0x80000000), (slot .sys 1, 0x100)] [] []))
      0x102 0xA000003F [] [] [] = true := by decide

/-- 95_test_vectors.md V143: `ADC r0, r1`. -/
theorem test_cAdc_V143 :
    ends (exec (decodeCompressed 0x4148)
      (start 0x100 0x2000003F [(slot .sys 0, 0xFFFFFFFF), (slot .sys 1, 0x0)] [] []))
      0x102 0x6000003F [(slot .sys 0, 0x0)] [] [] = true := by decide

/-- 95_test_vectors.md V144: `SBC r0, r1`. -/
theorem test_cSbc_V144 :
    ends (exec (decodeCompressed 0x4188)
      (start 0x100 0x0000003F [(slot .sys 0, 0x5), (slot .sys 1, 0x3)] [] []))
      0x102 0x2000003F [(slot .sys 0, 0x1)] [] [] = true := by decide

/-- 95_test_vectors.md V145: `ROR r0, r1`. -/
theorem test_cRorReg_V145 :
    ends (exec (decodeCompressed 0x41C8)
      (start 0x100 0x0000003F [(slot .sys 0, 0xF0), (slot .sys 1, 0x4)] [] []))
      0x102 0x0000003F [(slot .sys 0, 0xF)] [] [] = true := by decide

/-- 95_test_vectors.md V146: `TST r0, r1`. -/
theorem test_cTst_V146 :
    ends (exec (decodeCompressed 0x4208)
      (start 0x100 0x0000003F [(slot .sys 0, 0x1), (slot .sys 1, 0x2)] [] []))
      0x102 0x4000003F [] [] [] = true := by decide

/-- 95_test_vectors.md V148: `NEG r0, r1` (0x80000000). -/
theorem test_cNeg_V148 :
    ends (exec (decodeCompressed 0x4248)
      (start 0x100 0x0000003F [(slot .sys 1, 0x80000000)] [] []))
      0x102 0x9000003F [(slot .sys 0, 0x80000000)] [] [] = true := by decide

/-- 95_test_vectors.md V149: `CMP r0, r1`. -/
theorem test_cCmp_V149 :
    ends (exec (decodeCompressed 0x4288)
      (start 0x100 0x0000003F [(slot .sys 0, 0x1), (slot .sys 1, 0x2)] [] []))
      0x102 0x8000003F [] [] [] = true := by decide

/-- 95_test_vectors.md V150: `CMN r0, r1`. -/
theorem test_cCmn_V150 :
    ends (exec (decodeCompressed 0x42C8)
      (start 0x100 0x0000003F [(slot .sys 0, 0x1), (slot .sys 1, 0xFFFFFFFF)] [] []))
      0x102 0x6000003F [] [] [] = true := by decide

/-- 95_test_vectors.md V152: `MVN r0, r1`. -/
theorem test_cMvn_V152 :
    ends (exec (decodeCompressed 0x43C8)
      (start 0x100 0x0000003F [(slot .sys 1, 0x0)] [] []))
      0x102 0x8000003F [(slot .sys 0, 0xFFFFFFFF)] [] [] = true := by decide

/-- 95_test_vectors.md V153: `ADD r0, r8`. -/
theorem test_cAddHi_V153 :
    ends (exec (decodeCompressed 0x4440)
      (start 0x100 0x4000003F [(slot .sys 0, 0x1), (slot .sys 8, 0x2)] [] []))
      0x102 0x4000003F [(slot .sys 0, 0x3)] [] [] = true := by decide

/-- 95_test_vectors.md V158: `ADD pc, r0`. -/
theorem test_cAddHi_V158 :
    ends (exec (decodeCompressed 0x4487)
      (start 0x100 0x0000003F [(slot .sys 0, 0x10)] [] []))
      0x114 0x0000003F [] [] [] = true := by decide

/-- 95_test_vectors.md V155: `CMP r0, r8`. -/
theorem test_cCmpHi_V155 :
    ends (exec (decodeCompressed 0x4540)
      (start 0x100 0x0000003F [(slot .sys 0, 0x2), (slot .sys 8, 0x2)] [] []))
      0x102 0x6000003F [] [] [] = true := by decide

/-- 95_test_vectors.md V156: `MOV r8, r0`. -/
theorem test_cMovHi_V156 :
    ends (exec (decodeCompressed 0x4680)
      (start 0x100 0x0000003F [(slot .sys 0, 0x80000000)] [] []))
      0x102 0x0000003F [(slot .sys 8, 0x80000000)] [] [] = true := by decide

/-- 95_test_vectors.md V157: `MOV pc, r0`. -/
theorem test_cMovHi_V157 :
    ends (exec (decodeCompressed 0x4687)
      (start 0x100 0x0000003F [(slot .sys 0, 0x301)] [] []))
      0x300 0x0000003F [] [] [] = true := by decide

/-- 95_test_vectors.md V160: `BX r14` (stay compressed). -/
theorem test_cBx_V160 :
    ends (exec (decodeCompressed 0x4770)
      (start 0x100 0x0000003F [(slot .sys 14, 0x205)] [] []))
      0x204 0x0000003F [] [] [] = true := by decide

/-- 95_test_vectors.md V162: `BX pc at A = 0x102`. -/
theorem test_cBx_V162 :
    ends (exec (decodeCompressed 0x4778)
      (start 0x102 0x0000003F [] [] []))
      0x104 0x1F [] [] [] = true := by decide

/-- 95_test_vectors.md V163: `LDR r0, [pc, #4] at A = 0x102`. -/
theorem test_cLdrPc_V163 :
    ends (exec (decodeCompressed 0x4801)
      (start 0x102 0x0000003F [] [] [(0x108, .word, 0xDEADBEEF)]))
      0x104 0x0000003F [(slot .sys 0, 0xDEADBEEF)] [] [] = true := by decide

/-- 95_test_vectors.md V164: `STR r0, [r1, r2]`. -/
theorem test_cStrReg_V164 :
    ends (exec (decodeCompressed 0x5088)
      (start 0x100 0x0000003F [(slot .sys 0, 0xCAFEBABE), (slot .sys 1, 0x1000), (slot .sys 2, 0x8)] [] []))
      0x102 0x0000003F [] [] [(0x1008, .word, 0xCAFEBABE)] = true := by decide

/-- 95_test_vectors.md V165: `LDRB r0, [r1, r2]`. -/
theorem test_cLdrbReg_V165 :
    ends (exec (decodeCompressed 0x5C88)
      (start 0x100 0x0000003F [(slot .sys 1, 0x1000), (slot .sys 2, 0x1)] [] [(0x1000, .word, 0x11223344), (0x1004, .word, 0x8899AABB)]))
      0x102 0x0000003F [(slot .sys 0, 0x22)] [] [] = true := by decide

/-- 95_test_vectors.md V166: `STRH r0, [r1, r2]`. -/
theorem test_cStrhReg_V166 :
    ends (exec (decodeCompressed 0x5288)
      (start 0x100 0x0000003F [(slot .sys 0, 0xCAFEBABE), (slot .sys 1, 0x1000), (slot .sys 2, 0x2)] [] []))
      0x102 0x0000003F [] [] [(0x1002, .half, 0xBABE)] = true := by decide

/-- 95_test_vectors.md V167: `LDRSB r0, [r1, r2]`. -/
theorem test_cLdrsbReg_V167 :
    ends (exec (decodeCompressed 0x5688)
      (start 0x100 0x0000003F [(slot .sys 1, 0x1000), (slot .sys 2, 0x4)] [] [(0x1000, .word, 0x11223344), (0x1004, .word, 0x8899AABB)]))
      0x102 0x0000003F [(slot .sys 0, 0xFFFFFF88)] [] [] = true := by decide

/-- 95_test_vectors.md V168: `LDRH r0, [r1, r2]`. -/
theorem test_cLdrhReg_V168 :
    ends (exec (decodeCompressed 0x5A88)
      (start 0x100 0x0000003F [(slot .sys 1, 0x1000), (slot .sys 2, 0x6)] [] [(0x1000, .word, 0x11223344), (0x1004, .word, 0x8899AABB)]))
      0x102 0x0000003F [(slot .sys 0, 0xAABB)] [] [] = true := by decide

/-- 95_test_vectors.md V169: `LDRSH r0, [r1, r2]`. -/
theorem test_cLdrshReg_V169 :
    ends (exec (decodeCompressed 0x5E88)
      (start 0x100 0x0000003F [(slot .sys 1, 0x1000), (slot .sys 2, 0x6)] [] [(0x1000, .word, 0x11223344), (0x1004, .word, 0x8899AABB)]))
      0x102 0x0000003F [(slot .sys 0, 0xFFFFAABB)] [] [] = true := by decide

/-- 95_test_vectors.md V170: `LDR r0, [r1, #4]`. -/
theorem test_cLdrImm_V170 :
    ends (exec (decodeCompressed 0x6848)
      (start 0x100 0x0000003F [(slot .sys 1, 0x1000)] [] [(0x1000, .word, 0x11223344), (0x1004, .word, 0x8899AABB)]))
      0x102 0x0000003F [(slot .sys 0, 0x8899AABB)] [] [] = true := by decide

/-- 95_test_vectors.md V171: `STRB r0, [r1, #31]`. -/
theorem test_cStrbImm_V171 :
    ends (exec (decodeCompressed 0x77C8)
      (start 0x100 0x0000003F [(slot .sys 0, 0x1FF), (slot .sys 1, 0x1000)] [] []))
      0x102 0x0000003F [] [] [(0x101F, .byte, 0xFF)] = true := by decide

/-- 95_test_vectors.md V172: `LDRH r0, [r1, #62]`. -/
theorem test_cLdrhImm_V172 :
    ends (exec (decodeCompressed 0x8FC8)
      (start 0x100 0x0000003F [(slot .sys 1, 0x1000)] [] [(0x103E, .half, 0xBEEF)]))
      0x102 0x0000003F [(slot .sys 0, 0xBEEF)] [] [] = true := by decide

/-- 95_test_vectors.md V173: `STR r0, [sp, #1020]`. -/
theorem test_cStrSp_V173 :
    ends (exec (decodeCompressed 0x90FF)
      (start 0x100 0x0000003F [(slot .sys 0, 0x5), (slot .sys 13, 0x2000)] [] []))
      0x102 0x0000003F [] [] [(0x23FC, .word, 0x5)] = true := by decide

/-- 95_test_vectors.md V174: `LDR r0, [sp, #4]`. -/
theorem test_cLdrSp_V174 :
    ends (exec (decodeCompressed 0x9801)
      (start 0x100 0x0000003F [(slot .sys 13, 0x1000)] [] [(0x1000, .word, 0x11223344), (0x1004, .word, 0x8899AABB)]))
      0x102 0x0000003F [(slot .sys 0, 0x8899AABB)] [] [] = true := by decide

/-- 95_test_vectors.md V175: `ADD r0, pc, #4 at A = 0x102`. -/
theorem test_cAddPc_V175 :
    ends (exec (decodeCompressed 0xA001)
      (start 0x102 0x0000003F [] [] []))
      0x104 0x0000003F [(slot .sys 0, 0x108)] [] [] = true := by decide

/-- 95_test_vectors.md V176: `ADD r0, sp, #8`. -/
theorem test_cAddSp_V176 :
    ends (exec (decodeCompressed 0xA802)
      (start 0x100 0x0000003F [(slot .sys 13, 0x2000)] [] []))
      0x102 0x0000003F [(slot .sys 0, 0x2008)] [] [] = true := by decide

/-- 95_test_vectors.md V177: `ADD sp, #508`. -/
theorem test_cAddSpImm_V177 :
    ends (exec (decodeCompressed 0xB07F)
      (start 0x100 0x0000003F [(slot .sys 13, 0x2000)] [] []))
      0x102 0x0000003F [(slot .sys 13, 0x21FC)] [] [] = true := by decide

/-- 95_test_vectors.md V178: `SUB sp, #8`. -/
theorem test_cSubSpImm_V178 :
    ends (exec (decodeCompressed 0xB082)
      (start 0x100 0x0000003F [(slot .sys 13, 0x2000)] [] []))
      0x102 0x0000003F [(slot .sys 13, 0x1FF8)] [] [] = true := by decide

/-- 95_test_vectors.md V179: `PUSH {r0, lr}`. -/
theorem test_cPush_V179 :
    ends (exec (decodeCompressed 0xB501)
      (start 0x100 0x0000003F [(slot .sys 0, 0x7), (slot .sys 13, 0x2000), (slot .sys 14, 0x123)] [] []))
      0x102 0x0000003F [(slot .sys 13, 0x1FF8)] [] [(0x1FF8, .word, 0x7), (0x1FFC, .word, 0x123)] = true := by decide

/-- 95_test_vectors.md V180: `POP {r0, pc}`. -/
theorem test_cPop_V180 :
    ends (exec (decodeCompressed 0xBD01)
      (start 0x100 0x0000003F [(slot .sys 13, 0xFF8)] [] [(0xFF8, .word, 0x1), (0xFFC, .word, 0x200)]))
      0x200 0x0000003F [(slot .sys 0, 0x1), (slot .sys 13, 0x1000)] [] [] = true := by decide

/-- 95_test_vectors.md V181: `STMIA r0!, {r1, r2}`. -/
theorem test_cStmia_V181 :
    ends (exec (decodeCompressed 0xC006)
      (start 0x100 0x0000003F [(slot .sys 0, 0x2000), (slot .sys 1, 0xA), (slot .sys 2, 0xB)] [] []))
      0x102 0x0000003F [(slot .sys 0, 0x2008)] [] [(0x2000, .word, 0xA), (0x2004, .word, 0xB)] = true := by decide

/-- 95_test_vectors.md V182: `LDMIA r0!, {r0, r1}` (base in list). -/
theorem test_cLdmia_V182 :
    ends (exec (decodeCompressed 0xC803)
      (start 0x100 0x0000003F [(slot .sys 0, 0x1000)] [] [(0x1000, .word, 0x11223344), (0x1004, .word, 0x8899AABB)]))
      0x102 0x0000003F [(slot .sys 0, 0x11223344), (slot .sys 1, 0x8899AABB)] [] [] = true := by decide

/-- 95_test_vectors.md V183: `LDMIA r0!, {}` (empty). -/
theorem test_cLdmia_V183 :
    ends (exec (decodeCompressed 0xC800)
      (start 0x100 0x0000003F [(slot .sys 0, 0x1000)] [] [(0x1000, .word, 0x501)]))
      0x500 0x0000003F [(slot .sys 0, 0x1040)] [] [] = true := by decide

/-- 95_test_vectors.md V184: `BEQ taken, offset -2 half-words`. -/
theorem test_cBcond0_V184 :
    ends (exec (decodeCompressed 0xD0FE)
      (start 0x100 0x4000003F [] [] []))
      0x100 0x4000003F [] [] [] = true := by decide

/-- 95_test_vectors.md V185: `BEQ not taken`. -/
theorem test_cBcond0_V185 :
    ends (exec (decodeCompressed 0xD0FE)
      (start 0x100 0x0000003F [] [] []))
      0x102 0x0000003F [] [] [] = true := by decide

/-- 95_test_vectors.md V186: `BGT +4`. -/
theorem test_cBcondC_V186 :
    ends (exec (decodeCompressed 0xDC02)
      (start 0x100 0x0000003F [] [] []))
      0x108 0x0000003F [] [] [] = true := by decide

/-- 95_test_vectors.md V187: `SWI 5` (compressed, User). -/
theorem test_cSwi_V187 :
    ends (exec (decodeCompressed 0xDF05)
      (start 0x100 0x00000030 [] [] []))
      0x8 0x93 [(slot .svc 14, 0x102)] [(.svc, 0x30)] [] = true := by decide

/-- 95_test_vectors.md V188: `B -4`. -/
theorem test_cB_V188 :
    ends (exec (decodeCompressed 0xE7FC)
      (start 0x100 0x0000003F [] [] []))
      0xFC 0x0000003F [] [] [] = true := by decide

/-- 95_test_vectors.md V189: `BLH1 offset -1`. -/
theorem test_cBlh1_V189 :
    ends (exec (decodeCompressed 0xF7FF)
      (start 0x100 0x0000003F [] [] []))
      0x102 0x0000003F [(slot .sys 14, 0xFFFFF104)] [] [] = true := by decide

/-- 95_test_vectors.md V190: `BLH2 offset 2 at A = 0x102, r14 = 0x104`. -/
theorem test_cBlh2_V190 :
    ends (exec (decodeCompressed 0xF802)
      (start 0x102 0x0000003F [(slot .sys 14, 0x104)] [] []))
      0x108 0x0000003F [(slot .sys 14, 0x105)] [] [] = true := by decide

/-- 95_test_vectors.md V191: `UNDEFINED 0xDE00`. -/
theorem test_cUndefined_V191 :
    ends (exec (decodeCompressed 0xDE00)
      (start 0x100 0x00000030 [] [] []))
      0x4 0x9B [(slot .und 14, 0x102)] [(.und, 0x30)] [] = true := by decide

/-- R305, by hand. -/
theorem test_cAddImm3_hand :
    ends (exec (.cAddImm3 7 1 0)
      (start 0x100 0x0000003F [(slot .sys 1, 0xFFFFFFF9)] [] []))
      0x102 0x6000003F [(slot .sys 0, 0x0)] [] [] = true := by decide

/-- R306, by hand. -/
theorem test_cSubReg_hand :
    ends (exec (.cSubReg 2 1 0)
      (start 0x100 0x0000003F [(slot .sys 1, 0x3), (slot .sys 2, 0x5)] [] []))
      0x102 0x8000003F [(slot .sys 0, 0xFFFFFFFE)] [] [] = true := by decide

/-- R313, by hand. -/
theorem test_cEor_hand :
    ends (exec (.cEor 1 0)
      (start 0x100 0x2000003F [(slot .sys 0, 0xFF), (slot .sys 1, 0xF)] [] []))
      0x102 0x2000003F [(slot .sys 0, 0xF0)] [] [] = true := by decide

/-- R316, by hand. -/
theorem test_cAsrReg_hand :
    ends (exec (.cAsrReg 1 0)
      (start 0x100 0x0000003F [(slot .sys 0, 0x80000000), (slot .sys 1, 0x4)] [] []))
      0x102 0x8000003F [(slot .sys 0, 0xF8000000)] [] [] = true := by decide

/-- R324, by hand. -/
theorem test_cOrr_hand :
    ends (exec (.cOrr 1 0)
      (start 0x100 0x0000003F [(slot .sys 0, 0x80000000), (slot .sys 1, 0x1)] [] []))
      0x102 0x8000003F [(slot .sys 0, 0x80000001)] [] [] = true := by decide

/-- R326, by hand. -/
theorem test_cBic_hand :
    ends (exec (.cBic 1 0)
      (start 0x100 0x4000003F [(slot .sys 0, 0xFF), (slot .sys 1, 0xF0)] [] []))
      0x102 0x0000003F [(slot .sys 0, 0xF)] [] [] = true := by decide

/-- R342, by hand. -/
theorem test_cStrbReg_hand :
    ends (exec (.cStrbReg 2 1 0)
      (start 0x100 0x0000003F [(slot .sys 0, 0x1FF), (slot .sys 1, 0x1000), (slot .sys 2, 0x2)] [] [(0x1000, .word, 0x11223344)]))
      0x102 0x0000003F [] [] [(0x1000, .word, 0x1122FF44)] = true := by decide

/-- R343, by hand. -/
theorem test_cLdrReg_hand :
    ends (exec (.cLdrReg 2 1 0)
      (start 0x100 0x0000003F [(slot .sys 1, 0x1000), (slot .sys 2, 0x4)] [] [(0x1004, .word, 0x8899AABB)]))
      0x102 0x0000003F [(slot .sys 0, 0x8899AABB)] [] [] = true := by decide

/-- R360, by hand. -/
theorem test_cStrImm_hand :
    ends (exec (.cStrImm 31 1 0)
      (start 0x100 0x0000003F [(slot .sys 0, 0xCAFEBABE), (slot .sys 1, 0x1000)] [] []))
      0x102 0x0000003F [] [] [(0x107C, .word, 0xCAFEBABE)] = true := by decide

/-- R363, by hand. -/
theorem test_cLdrbImm_hand :
    ends (exec (.cLdrbImm 5 1 0)
      (start 0x100 0x0000003F [(slot .sys 1, 0x1000)] [] [(0x1004, .word, 0x8899AABB)]))
      0x102 0x0000003F [(slot .sys 0, 0x99)] [] [] = true := by decide

/-- R364, by hand. -/
theorem test_cStrhImm_hand :
    ends (exec (.cStrhImm 1 1 0)
      (start 0x100 0x0000003F [(slot .sys 0, 0xCAFEBABE), (slot .sys 1, 0x1000)] [] [(0x1000, .word, 0x11223344)]))
      0x102 0x0000003F [] [] [(0x1000, .word, 0x1122BABE)] = true := by decide

/-- R390, by hand. -/
theorem test_cBcond8_hand :
    ends (exec (.cBcond8 .hi 1)
      (start 0x100 0x2000003F [] [] []))
      0x106 0x2000003F [] [] [] = true := by decide

/-! ## Tags and reset -/

/-- R46, R111: a compressed instruction has the tag of the wide one whose record it fills; the three compressed tags of
their own; the two UNDEFINED rows. -/
theorem test_tags :
    (decodeCompressed 0x0048).tag = .mov ∧ (decodeCompressed 0x4248).tag = .rsb ∧
    (decodeCompressed 0x1888).tag = .add ∧ (decodeCompressed 0xB501).tag = .stm ∧
    (decodeCompressed 0xC901).tag = .ldm ∧ (decodeCompressed 0x4800).tag = .ldr ∧
    (decodeCompressed 0xDF05).tag = .swi ∧ (decodeCompressed 0xBE01).tag = .bkpt ∧
    (decodeCompressed 0xF000).tag = .blh1 ∧ (decodeCompressed 0xF800).tag = .blh2 ∧
    (decodeCompressed 0xDE00).tag = .undefined ∧ (decodeWide 0xEE000000).tag = .undefined ∧
    (decodeWide 0xE5910004).tag = .ldr ∧ (decodeWide 0xE1000080).tag = .mulhalf := by decide

/-- R8, R42, R461: the reset status word is RESET_CPSR, 0x000000D3, and R15 is RESET_PC. -/
theorem test_reset_parameters :
    State.reset.cpsr.pack = Config.resetCpsr ∧ State.reset.cpsr.pack = 0x000000D3 ∧
    State.reset.pc = Config.resetPc := by decide

/-! ## One step: free values and the two tags without a meaning -/

/-- 95_test_vectors.md V41: `MULS r0, r1, r2`. -/
theorem test_mul_V41 :
    endsNZ (exec (decodeWide 0xE0100291) (start 0x100 0x0000001F [(slot .sys 1, 0x10000), (slot .sys 2, 0x10000)] [] []))
      0x104 (false, true) [(slot .sys 0, 0x0)] = true := by decide

/-- 95_test_vectors.md V45: `SMULLS r0, r1, r2, r3`. -/
theorem test_smull_V45 :
    endsNZ (exec (decodeWide 0xE0D10392) (start 0x100 0x0000001F [(slot .sys 2, 0xFFFFFFFF), (slot .sys 3, 0x2)] [] []))
      0x104 (true, false) [(slot .sys 0, 0xFFFFFFFE), (slot .sys 1, 0xFFFFFFFF)] = true := by decide

/-- 95_test_vectors.md V151: `MUL r0, r1`. -/
theorem test_cMul_V151 :
    endsNZ (exec (decodeCompressed 0x4348) (start 0x100 0x0000003F [(slot .sys 0, 0x6), (slot .sys 1, 0x7)] [] []))
      0x102 (false, false) [(slot .sys 0, 0x2A)] = true := by decide

/-- 95_test_vectors.md V48, V49, V52, V109, V127, V194: the refusals. -/
theorem test_refusals :
    refuses (exec (decodeWide 0xE000029F) (start 0x100 0x0000001F [(slot .sys 2, 0x7)] [] [])) .pcInMultiply = true ∧
    refuses (exec (decodeWide 0xE1000080) (start 0x100 0x0000001F [] [] [])) .mulhalfPolicy = true ∧
    refuses (exec (decodeWide 0xE14F0000) (start 0x100 0x0000001F [] [] [])) .noSpsr = true ∧
    refuses (exec (decodeWide 0xE8FD8001) (start 0x100 0x00000010 [(slot .usr 13, 0x1000)] [] [])) .noSpsr = true ∧
    refuses (exec (decodeWide 0xE1B0F00E) (start 0x100 0x00000010 [(slot .usr 14, 0x100)] [] [])) .noSpsr = true ∧
    refuses (exec (decodeCompressed 0xBE01) (start 0x100 0x0000003F [] [] [])) .bkptPolicy = true := by decide

/-- R217, R170: MULHALF whose condition fails only advances. -/
theorem test_mulhalf_condition_fails :
    ends (exec (.mulhalf .eq 0 1 2 3 0 0) (start 0x100 0x0000001F [] [] [])) 0x104 0x0000001F [] [] [] = true := by decide


/-! ## Witnesses: states and operands that meet the hypotheses of the statements -/

/-- Supervisor mode, N clear, C set. -/
def inSvc : State := start 0x100 0x200000D3 [] [(.svc, 0x60000030)] []
/-- User mode, wide. -/
def inUsr : State := start 0x100 0x00000010 [(slot .usr 1, 0x1000)] [] []
/-- System mode, compressed. -/
def inSysT : State := start 0x102 0x0000003F [(slot .sys 1, 0x1000), (slot .sys 13, 0x2000)] [] []
/-- A map with one region of each kind that is not plain memory. -/
def mapped : State :=
  { State.reset with
    bus := [⟨0x4000, 8, .unmapped⟩, ⟨0x5000, 8, .readOnly⟩, ⟨0x6000, 8, .device⟩, Region.programRom 16] }

/-- WideDecodeAfterEncode, CompressedDecodeAfterEncode: the tightest rows. -/
theorem test_hyp_wellformed :
    (Instr.wf (.teqImm .al true 15 15 15 0xFF) = true ∧ Instr.isWide (.teqImm .al true 15 15 15 0xFF) = true) ∧
    (Instr.wf (.cBcond0 .vc 0x80) = true ∧ Instr.isWide (.cBcond0 .vc 0x80) = false) ∧
    (Instr.wf (.cBcond8 .hi 0) = true ∧ Instr.isWide (.cBcond8 .hi 0) = false) ∧
    (Instr.wf (.cBcond8 .lt 0) = true ∧ Instr.isWide (.cBcond8 .lt 0) = false) ∧
    (Instr.wf (.cBcondC .gt 0) = true ∧ Instr.isWide (.cBcondC .gt 0) = false) ∧
    (Instr.wf (.cBcondC .le 0) = true ∧ Instr.isWide (.cBcondC .le 0) = false) := by decide

/-- ShifterTable: each clause at the ends of its range, with the results of 95_test_vectors.md S3 or by hand. -/
theorem test_hyp_shifter :
    (1 ≤ 1 ∧ 1 ≤ 31 ∧ shift .lsl 0x80000001 1 false false = (0x00000002, true)) ∧
    (1 ≤ 31 ∧ 31 ≤ 31 ∧ shift .asr 0x80000001 31 false true = (0xFFFFFFFF, false)) ∧
    (33 ≤ 33 ∧ 33 ≤ 255 ∧ shift .lsl 0xFFFFFFFF 33 true true = (0, false)) ∧
    (33 ≤ 255 ∧ 255 ≤ 255 ∧ shift .lsr 0xFFFFFFFF 255 true true = (0, false)) ∧
    (32 ≤ 32 ∧ 32 ≤ 255 ∧ 32 % 32 = 0 ∧ shift .ror 0x80000001 32 false true = (0x80000001, true)) ∧
    (32 ≤ 224 ∧ 224 ≤ 255 ∧ 224 % 32 = 0 ∧ shift .ror 0x7FFFFFFF 224 true true = (0x7FFFFFFF, false)) ∧
    (32 ≤ 33 ∧ 33 ≤ 255 ∧ 33 % 32 ≠ 0 ∧ shift .ror 0x00000001 33 false true = (0x80000000, true)) ∧
    (32 ≤ 255 ∧ 255 ≤ 255 ∧ 255 % 32 ≠ 0 ∧ shift .asr 0x80000000 255 false true = (0xFFFFFFFF, true)) ∧
    shift .ror 0x00000002 0 true false = (0x80000001, false) ∧ shift .ror 0x00000001 0 false false = (0, true) ∧
    shift .lsr 0x80000001 0 false false = (0, true) ∧ shift .asr 0x80000000 0 false false = (0xFFFFFFFF, true) := by
  decide

/-- RotatedImmediate: both clauses; R175's own carry is bit 31 of the rotated value. -/
theorem test_hyp_rotated_immediate :
    ((0 : BitVec 4) = 0 ∧ operand2 (.imm 0 0xFF) inSvc = (0xFF, true)) ∧
    ((1 : BitVec 4) ≠ 0 ∧ operand2 (.imm 1 0x02) inSvc = (0x80000000, true)) ∧
    ((15 : BitVec 4) ≠ 0 ∧ operand2 (.imm 15 0x01) inSvc = (4, false)) := by decide

/-- ConditionGatesExecution. -/
theorem test_hyp_condition_fails :
    (Instr.cond? (.undefined .eq) = some .eq ∧ conditionPassed .eq inUsr.cpsr = false) ∧
    (Instr.cond? (.swi .nv 0) = some .nv ∧ conditionPassed .nv inUsr.cpsr = false) ∧
    (Instr.cond? (.cBcondC .le 0) = some .le ∧ conditionPassed .le inUsr.cpsr = false) := by decide

/-- StatusWordLayout, StatusWordRoundTrip: an encoding of no mode, and one of a mode. -/
theorem test_hyp_mode_encodings :
    (∀ m : Mode, m.enc ≠ 0x00) ∧ (∀ m : Mode, m.enc ≠ 0x1A) ∧
    (∀ m : Mode, (0x8000003A : Word).extractLsb' 0 5 ≠ m.enc) ∧ (0x600000D3 : Word).extractLsb' 0 5 = Mode.svc.enc := by
  refine ⟨?_, ?_, ?_, by decide⟩ <;> intro m <;> cases m <;> decide

/-- RegisterBanking: 95_test_vectors.md S6, and the ends of the FIQ bank. -/
theorem test_hyp_banking :
    (let s := (((State.reset.inMode .irq).setX 13 7).inMode .usr)
     (13 : Reg) ≠ 15 ∧ ¬bankOf .irq 13 = bankOf .usr 13 ∧ s.x 13 = 0) ∧
    (let s := (((State.reset.inMode .fiq).setX 8 7).inMode .svc)
     (8 : Reg) ≠ 15 ∧ ¬bankOf .fiq 8 = bankOf .svc 8 ∧ s.x 8 = 0) ∧
    (let s := (((State.reset.inMode .fiq).setX 7 7).inMode .und)
     (7 : Reg) ≠ 15 ∧ bankOf .fiq 7 = bankOf .und 7 ∧ s.x 7 = 7) ∧
    (let s := (((State.reset.inMode .usr).setX 14 7).inMode .sys)
     (14 : Reg) ≠ 15 ∧ bankOf .usr 14 = bankOf .sys 14 ∧ s.x 14 = 7) := by decide

/-- WriteThenRead, MixedWidthReads, StoresTouchOnlyTheirBytes: canonical memory, plain spans, across the wrap. -/
theorem test_hyp_plain_spans :
    State.reset.mem.wf = true ∧ State.reset.plain [0xFFFFFFFF] ∧ State.reset.plain (span 0xFFFFFFFF 2) ∧
    State.reset.plain (span 0xFFFFFFFE 4) ∧ mapped.plain (span 0x4008 4) ∧ mapped.plain (span 0x3FFC 4) := by
  exact ⟨by decide, fun _ _ => rfl, fun _ _ => rfl, fun _ _ => rfl, of_all (by decide), of_all (by decide)⟩

/-- AccessesOutsidePlainMemory: each kind of range, at its last bytes. -/
theorem test_hyp_outside_plain :
    kindAt mapped.bus 0x4007 = .unmapped ∧ (∀ b ∈ span 0x4004 Size.word.bytes, kindAt mapped.bus b ≠ .ram) ∧
    (∀ b ∈ span 0x5006 Size.half.bytes, kindAt mapped.bus b ≠ .ram) ∧
    (∀ b ∈ span 0x6007 Size.byte.bytes, kindAt mapped.bus b ≠ .ram) ∧
    (∀ b ∈ span 0x0800000C Size.word.bytes, kindAt mapped.bus b ≠ .ram) :=
  ⟨by decide, of_all (by decide), of_all (by decide), of_all (by decide), of_all (by decide)⟩

/-- SecondOperandForms: the hypotheses, and R176's forms where the rows differ, by hand from the table of R151: C is set,
A = 0x100, r0 = 0; LSR #32 and RRX of A + 8, A + 12 shifted by r0's 0 and by its own low byte, 12. -/
theorem test_hyp_second_operand :
    (conditionPassed .al inSvc.cpsr = true ∧ (14 : Reg) ≠ 15) ∧
    operand2 (.imm 1 0x02) inSvc = (0x80000000, true) ∧ operand2 (.shiftImm 0 .ror 15) inSvc = (0x80000084, false) ∧
    operand2 (.shiftImm 0 .lsr 15) inSvc = (0, false) ∧ operand2 (.shiftReg 0 .lsr 15) inSvc = (0x10C, true) ∧
    operand2 (.shiftReg 15 .lsr 15) inSvc = (0, false) := by decide

/-- DataProcessingResult, DataProcessingBranch, DataProcessingReturn, ComparesWithoutSDoNothing. -/
theorem test_hyp_data_processing :
    conditionPassed .al inSvc.cpsr = true ∧ conditionPassed .cs inSvc.cpsr = true ∧
    (DpOp.writes .mvn = true ∧ (14 : Reg) ≠ 15) ∧ (DpOp.writes .tst = true → (15 : Reg) ≠ 15) ∧
    DpOp.writes .add = true ∧ DpOp.writes .cmn = false ∧
    inSvc.spsrOf inSvc.cpsr.mode = some (Psr.unpack 0x60000030) ∧
    (conditionPassed .al inUsr.cpsr = true ∧ inUsr.cpsr.mode = .usr) ∧
    (conditionPassed .al inSysT.cpsr = true ∧ inSysT.cpsr.mode = .sys) := by decide

/-- ProgramCounterReads, ShortMultiplies, LongMultiplies, TagsWithoutMeaningRefuse, MrsReadsStatus, MsrWritesCpsr,
MsrWritesSpsr: the condition, the register bounds, each mode's clause (the modes as in `test_hyp_data_processing`). -/
theorem test_hyp_registers :
    conditionPassed .al inSvc.cpsr = true ∧ (14 : Reg) ≠ 15 ∧ (0 : Reg) ≠ 15 ∧
    ((PsrSel.cpsr = .cpsr ∧ inSvc.cpsr = inSvc.cpsr) ∨
      (PsrSel.cpsr = .spsr ∧ inSvc.spsrOf inSvc.cpsr.mode = some inSvc.cpsr)) ∧
    ((PsrSel.spsr = .cpsr ∧ Psr.unpack 0x60000030 = inSvc.cpsr) ∨
      (PsrSel.spsr = .spsr ∧ inSvc.spsrOf inSvc.cpsr.mode = some (Psr.unpack 0x60000030))) := by decide

/-- LoadsIntoRegister, LoadsIntoProgramCounter, StoresFromRegister, SwapExchanges: with and without write-back. -/
theorem test_hyp_transfers :
    conditionPassed .al inUsr.cpsr = true ∧
    ((false = false ∨ false = true) ∧ (1 : Reg) ≠ 15) ∧ ((true = false ∨ true = true) ∧ (14 : Reg) ≠ 15) ∧
    (true = false ∨ false = true → (15 : Reg) ≠ 15) ∧ (1 : Reg) ≠ 0 ∧ inUsr.mem.wf = true := by decide

/-- StoresFromRegister, SwapExchanges: a stored word in plain memory. -/
theorem test_hyp_transfer_span : inUsr.plain (span (inUsr.x 1) Size.word.bytes) := fun _ _ => rfl

/-- blockForms, transferredRegs, blockAddr: R265's IA, IB, DA and DB on {r0, r4, r15} from 0x1000, worked by hand, and
the empty list's table of R270. -/
theorem test_block_forms :
    blockForms 0x1000 0x8011 = [(false, true, 0x1000, 0x100C), (true, true, 0x1004, 0x100C),
      (false, false, 0xFF8, 0xFF4), (true, false, 0xFF4, 0xFF4)] ∧
    blockForms 0x1000 0 = [(false, true, 0x1000, 0x1040), (true, true, 0x1004, 0x1040),
      (false, false, 0xFC4, 0xFC0), (true, false, 0xFC0, 0xFC0)] ∧
    transferredRegs 0x8011 = [0, 4, 15] ∧ transferredRegs 0 = [15] ∧
    blockAddr 0xFF4 0x8011 0 = 0xFF4 ∧ blockAddr 0xFF4 0x8011 4 = 0xFF8 ∧ blockAddr 0xFF4 0x8011 15 = 0xFFC ∧
    blockAddr 0x1004 0 15 = 0x1004 := by decide

/-- LoadMultiple, LoadMultipleReturns, LoadMultipleUserBank, StoreMultiple, EmptyListTable: the condition, the base, the
S and W bits, lists with and without r15. -/
theorem test_hyp_block_transfers :
    conditionPassed .al inSvc.cpsr = true ∧ (13 : Reg) ≠ 15 ∧ inSvc.mem.wf = true ∧
    ¬(true = true ∧ false = true) ∧ ¬(false = true ∧ true = true) ∧
    (0x8001#16).getLsbD 15 = true ∧ (0x4001#16).getLsbD 15 = false ∧ (0#16).getLsbD 15 = false := by decide

/-- The clauses about listed registers: a register and r15 in the list, the base and r15 out of it, the empty list. -/
theorem test_hyp_block_lists :
    (transferred 0x8001 0 ∧ (0 : Reg) ≠ 15) ∧ transferred 0x8001 15 ∧ ¬transferred 0x8001 13 ∧
    ¬transferred 0x4001 15 ∧ transferred 0 15 ∧ ¬transferred 0 14 := by
  unfold transferred
  decide

/-- The four forms of a block transfer, one member each, from the base 0 of Supervisor's r13. -/
theorem test_hyp_block_members :
    (false, true, 0, 8) ∈ blockForms (inSvc.x 13) 0x8001 ∧ (true, true, 4, 8) ∈ blockForms (inSvc.x 13) 0x4001 ∧
    (false, false, 0xFFFFFFC4, 0xFFFFFFC0) ∈ blockForms (inSvc.x 13) 0 ∧
    (true, false, 0xFFFFFFFC, 0xFFFFFFFC) ∈ blockForms (inSvc.x 13) 0x2000 := by decide

/-- StoreMultiple, EmptyListTable, CompressedBlockStores, CompressedStores: stored spans in plain memory, one across the wrap. -/
theorem test_hyp_block_spans :
    inSvc.plain (blockSpan 0xFFFFFFFC 0x8001) ∧ inSvc.plain (span (inSvc.x 13 - 0x3C) 4) ∧
    inSysT.plain (blockSpan (inSysT.x 13 - 8) 0x4080) ∧
    inSysT.plain (span (inSysT.x 1 + 0x7C) Size.word.bytes) :=
  ⟨fun _ _ => rfl, fun _ _ => rfl, fun _ _ => rfl, fun _ _ => rfl⟩

/-- RefusedOperands: each premise. -/
theorem test_hyp_refused_operands :
    conditionPassed .al inUsr.cpsr = true ∧ ((15 : Reg) = 15 ∨ (0 : Reg) = 15) ∧ (MulOp.mla ≠ .mul ∧ (15 : Reg) = 15) ∧
    ((false = false ∨ false = true) ∧ (14 : Reg) ≠ 15) ∧ (0#16).getLsbD 15 = false ∧ (0x7FFF#16).getLsbD 15 = false := by
  decide

/-- WideBranches, BranchAndExchange, ExceptionEntry, CompressedBranches, LongBranchPair. -/
theorem test_hyp_branches :
    conditionPassed .al inUsr.cpsr = true ∧ conditionPassed .ne inSysT.cpsr = true ∧
    (inSysT.cpsr.t = true ∧ inSysT.pc.getLsbD 0 = false) := by decide

/-- CompressedAluResult, CompressedFlaglessResult, CompressedStores, CompressedBlockLoads, CompressedBlockStores. -/
theorem test_hyp_compressed :
    DpOp.writes .mvn = true ∧ (14 : Reg) ≠ 15 ∧ (15 : Reg) = 15 ∧ inSysT.mem.wf = true ∧
    (transferred 0x8080 7 ∧ (7 : Reg) ≠ 15) ∧ ¬transferred 0x8080 13 ∧ transferred 0x8080 15 ∧
    ¬transferred 0x0080 15 := by
  unfold transferred
  decide

/-- StepRunsDecodedInstruction, and that the step is that instruction's: S7's word, and a compressed one. -/
theorem test_hyp_step :
    (let s := start 0x100 0x4000001F [(slot .sys 12, 5), (slot .sys 5, 7)] [] [(0x100, .word, 0x008CA015)]
     decode s.cpsr.t ((span s.pc 4).map ({ s with free := s.free + 1 }).load8) =
         .ok (.addShiftReg .eq false 12 10 0 .lsl 5, []) ∧
       ends (step s) 0x104 0x4000001F [(slot .sys 10, 12)] [] [] = true) ∧
    (let s := start 0x102 0x0000003F [] [] [(0x100, .word, 0x0000DF05)]
     decode s.cpsr.t ((span s.pc 2).map ({ s with free := s.free + 1 }).load8) = .ok (.cSwi 5, []) ∧
       ends (step s) 0x8 0x00000093 [(slot .svc 14, 0x104)] [(.svc, 0x3F)] [] = true) := by decide

/-- StepKeepsInvariant: a state with listed memory, in each encoding, and its next state. -/
theorem test_hyp_invariant :
    (∃ t, inUsr.Inv ∧ step inUsr = .next t) ∧
    (∃ t, (start 0x102 0x0000003F [] [] [(0x102, .half, 0x4770)]).Inv ∧
      step (start 0x102 0x0000003F [] [] [(0x102, .half, 0x4770)]) = .next t) :=
  ⟨⟨_, by unfold State.Inv; decide, rfl⟩, ⟨_, by unfold State.Inv; decide, rfl⟩⟩

/-- UserModeLeftOnlyByTrap, UserModeLeavesPrivateState: each way, and a private register of another mode. -/
theorem test_hyp_user_mode :
    inUsr.cpsr.mode = .usr ∧ (∃ t, exec (.swi .al 0) inUsr = .next t ∧ t.cpsr.mode = .svc ∧ ¬(Mode.irq = t.cpsr.mode) ∧
      ¬(Mode.svc = t.cpsr.mode ∧ (13 : Reg) = 14)) ∧
    (∃ t, exec (.undefined .al) inUsr = .next t ∧ t.cpsr.mode = .und) ∧
    (∃ t, exec (.msrReg .al .cpsr 9 0) inUsr = .next t ∧ t.cpsr.mode = .usr) ∧
    bankOf .svc 13 ≠ .usr ∧ bankOf .fiq 8 ≠ .usr ∧ bankOf .und 14 ≠ .usr :=
  ⟨by decide, ⟨_, rfl, by decide, by decide, by decide⟩, ⟨_, rfl, by decide⟩, ⟨_, rfl, by decide⟩, by decide, by decide,
    by decide⟩

end Sys2Proof.Tests
end

section
/-! PROOFS. The scope statements: the condition gate (R12, R170), what r15 reads as (R29, R199) and the step as fetch,
decode, execute (R12, R66). -/

namespace Sys2Proof.Machine

/-! ## The condition gate (R12, R170) -/

/-- The one shape of every meaning that has a condition: a test around its body, the plain advance beside it. -/
theorem exec_eq_gate {i : Instr} {cond : Cond} (h : i.cond? = some cond) (s : State) :
    ∃ body, exec i s = if conditionPassed cond s.cpsr then body else .next (s.advance i.width) := by
  -- Without a condition field `h` is false; a wide meaning unfolds to `whenPassed`, a compressed one to
  -- `compressedCondBranch`.
  cases i <;> cases h <;> exact ⟨_, rfl⟩

theorem exec_of_condition_failed {i : Instr} {cond : Cond} {s : State} (h : i.cond? = some cond)
    (hc : conditionPassed cond s.cpsr = false) : exec i s = .next (s.advance i.width) := by
  obtain ⟨body, hb⟩ := exec_eq_gate h s
  rw [hb, hc]
  rfl

/-! ## The adder and the operands -/

/-- R160: without a carry in, the adder's result is the sum modulo 2^32. -/
@[simp] theorem addWithCarry_false_fst (a b : Word) : (addWithCarry a b false).1 = a + b := by
  apply BitVec.eq_of_toNat_eq
  simp [addWithCarry]

/-- R141: the low byte of a word, as a number. -/
theorem toNat_lowByte (v : Word) : (bits v 7 0 : BitVec 8).toNat = v.toNat % 256 := by
  rw [bits_eq v 7 0 rfl, BitVec.extractLsb'_toNat, Nat.shiftRight_zero]

/-- R106 (a): a rotation of 0 leaves the immediate as it stands. -/
theorem rotatedImm_zero (imm : BitVec 8) : rotatedImm 0 imm = imm.setWidth 32 := by
  simp [rotatedImm, BitVec.rotateRight_def]

/-- R175: then the carry passes through. -/
theorem operand2_imm_zero (imm : BitVec 8) (s : State) : operand2 (.imm 0 imm) s = (imm.setWidth 32, s.cpsr.c) :=
  congrArg (·, s.cpsr.c) (rotatedImm_zero imm)

/-- R176: a register shifted by a register, both read at A + 12 when they are r15. -/
theorem operand2_shiftReg (rs : Reg) (kind : ShiftKind) (rm : Reg) (s : State) :
    operand2 (.shiftReg rs kind rm) s = shift kind (s.reg rm 12) ((s.reg rs 12).toNat % 256) s.cpsr.c true := by
  rw [← toNat_lowByte]
  rfl

/-! ## Data-processing whose condition passes (R180) -/

/-- With a destination other than r15, or a discarded result, data-processing commits what its operation answers. -/
theorem dataProcessing_passed {cond : Cond} {s : State} {writes : Bool} {rd : Reg} (f : AluFn) (sf : Bool) (rn : Reg)
    (o : Op2) (hc : conditionPassed cond s.cpsr = true) (hd : writes = true → rd ≠ 15) :
    dataProcessing f writes cond sf rn rd o s =
      .next (aluCommit 4 sf writes rd (f (s.reg rn (op2PcOffset o)) (operand2 o s).1 s.cpsr.c) (operand2 o s).2 s) := by
  have hr : (writes && rd == 15 && sf) = false := by
    cases writes
    · rfl
    · rw [beq_false_of_ne (hd rfl)]
      rfl
  rw [dataProcessing, whenPassed_true hc]
  simp only [hr, Bool.false_eq_true, if_false]

/-- The register an operation that writes its result leaves. -/
theorem dataProcessing_result {cond : Cond} {s : State} {rd : Reg} (f : AluFn) (sf : Bool) (rn : Reg) (o : Op2)
    (hc : conditionPassed cond s.cpsr = true) (hd : rd ≠ 15) :
    ∃ t, dataProcessing f true cond sf rn rd o s = .next t ∧
      t.readSlot (s.here rd) = (f (s.reg rn (op2PcOffset o)) (operand2 o s).1 s.cpsr.c).result := by
  obtain ⟨hr, -⟩ := aluCommit_spec 4 sf true rd (f (s.reg rn (op2PcOffset o)) (operand2 o s).1 s.cpsr.c)
    (operand2 o s).2 s fun _ => hd
  exact ⟨_, dataProcessing_passed f sf rn o hc fun _ => hd, hr rfl⟩

/-! ## Fetch and decode (R62, R66) -/

/-- R66: the bytes at R15, as many as T's encoding is wide, decode to the instruction `fetch` reads. -/
theorem decode_span_pc (s : State) :
    decode s.cpsr.t ((span s.pc (if s.cpsr.t then 2 else 4)).map s.load8) = .ok (s.fetch, []) := by
  cases h : s.cpsr.t <;>
    simp [span, decode, State.fetch, State.load32, State.load16, h, BitVec.add_assoc]

end Sys2Proof.Machine

section
open Sys2Proof Sys2Proof.Machine

/-- Settles O11: the table row by row, and the gate that every conditional meaning has the shape of. -/
theorem conditionGatesExecution : Obligations.ConditionGatesExecution := by
  refine ⟨fun p => by simp [conditionPassed], fun i cond s h hc => ?_⟩
  exact ⟨_, exec_of_condition_failed h hc, advance_pc s _, advance_cpsr s _, frame_advance s _⟩

/-- Settles O24: the reads are `reg`'s two branches; each of the four instructions shows its own. -/
theorem programCounterReads : Obligations.ProgramCounterReads := by
  refine ⟨fun _ _ _ => rfl, fun _ _ => rfl, fun cond rd rs imm s hc hd => ⟨?_, ?_, fun hs => ?_, ?_⟩⟩
  · obtain ⟨t, ht, hr⟩ := dataProcessing_result aluAdd false 15 (.imm 0 imm) hc hd
    refine ⟨t, ht, hr.trans ?_⟩
    rw [operand2_imm_zero]
    exact addWithCarry_false_fst _ _
  · obtain ⟨t, ht, hr⟩ := dataProcessing_result aluMov false 0 (.shiftReg rs .lsl 15) hc hd
    refine ⟨t, ht, hr.trans ?_⟩
    rw [operand2_shiftReg]
    rfl
  · obtain ⟨t, ht, hr⟩ := dataProcessing_result aluAdd false 15 (.shiftReg rs .ror rs) hc hd
    refine ⟨t, ht, hr.trans ?_⟩
    rw [operand2_shiftReg, reg_eq s rs 12 hs, ← x_eq s rs hs]
    exact addWithCarry_false_fst _ _
  · obtain ⟨hw, -⟩ := advance_setX_spec s 2 rd (s.xc rd + s.xc 15)
    refine ⟨_, rfl, (hw hd).1.trans ?_⟩
    rw [xc_eq s rd hd, x_eq s rd hd]
    exact congrArg _ (xc_pc s)

/-- Settles O54: the step executes what `fetch` reads, and the bytes at R15 decode to that and nothing else. -/
theorem stepRunsDecodedInstruction : Obligations.StepRunsDecodedInstruction := by
  intro s i rest h
  cases (decode_span_pc s.tick).symm.trans h
  rfl

end
end

section
/-! PROOFS. What the two decoders answer: an instruction of their own set, well-formed (R46, R94, R110). -/

namespace Sys2Proof

/-! ## The tags of one set alone (R46) -/

/-- R46: the tags the compressed decoder alone gives. -/
def Tag.compressedOnly : List Tag := [.bkpt, .blh1, .blh2]

/-- R46: the tags the wide decoder alone gives. -/
def Tag.wideOnly : List Tag :=
  [.rsc, .teq, .mla, .umull, .umlal, .smull, .smlal, .mulhalf, .mrs, .msr, .swp, .swpb, .bl]

/-- R46: the tag of an instruction is never one of the other set's own. -/
theorem tag_not_otherSet (i : Instr) : i.tag ∉ (if i.isWide then Tag.compressedOnly else Tag.wideOnly) := by
  cases i <;> exact of_decide_eq_true rfl

/-! ## Wide families (R96 to R105) -/

theorem isWide_dpInstr (op : DpOp) (cond : Cond) (sf : Bool) (rn rd : Reg) (o : Op2) :
    (op.instr cond sf rn rd o).isWide = true := by
  cases o <;> cases op <;> rfl

/-- R107: a comparison without S is well-formed as TST or CMP with an immediate only; every other data-processing
instruction is. -/
theorem wf_dpInstr (op : DpOp) (cond : Cond) (sf : Bool) (rn rd : Reg) (o : Op2)
    (h : op.toBits.getLsbD 3 = true → op.toBits.getLsbD 2 = false → sf = false →
      (∃ rot imm, o = .imm rot imm) ∧ op.toBits.getLsbD 0 = false) :
    (op.instr cond sf rn rd o).wf = true := by
  cases sf with
  | true => cases o <;> cases op <;> rfl
  | false =>
    cases o
    case imm =>
      cases op
      case teq | cmn => exact absurd (h rfl rfl rfl).2 nofun
      all_goals rfl
    case shiftImm | shiftReg =>
      cases op
      case tst | teq | cmp | cmn =>
        obtain ⟨⟨_, _, ho⟩, -⟩ := h rfl rfl rfl
        cases ho
      all_goals rfl

theorem DpOp.toBits_ofBits (f : BitVec 4) : (DpOp.ofBits f).toBits = f := by revert f; decide

theorem Cond.toBits_ofBits (f : BitVec 4) : (Cond.ofBits f).toBits = f := by revert f; decide

/-- A well-formed instruction of the wide set, or of the compressed one. -/
def Instr.WellFormedIn (wide : Bool) (i : Instr) : Prop := i.wf = true ∧ i.isWide = wide

/-- R103, R107: the words that reach data-processing are those that are no status-register transfer. -/
theorem decodeDataProcessing_wellFormed (cond : Cond) {w : Word} (h27 : bit w 27 = false) (h26 : bit w 26 = false)
    (h : isPsrTransfer w = false) :
    (decodeDataProcessing cond w).WellFormedIn true := by
  refine ⟨wf_dpInstr _ _ _ _ _ _ ?_, isWide_dpInstr _ _ _ _ _ _⟩
  have hb : ∀ i < 4, (bits w 24 21 : BitVec 4).getLsbD i = bit w (21 + i) := fun i hi => bit_bits w 24 21 i hi hi
  rw [DpOp.toBits_ofBits, hb 3 (by omega), hb 2 (by omega), hb 0 (by omega)]
  intro h24 h23 h20
  rw [isPsrTransfer_eq, h27, h26, h24, h23, h20] at h
  simp at h
  simp [decodeOp2, h]

theorem decodeSingle_wellFormed (cond : Cond) (w : Word) : (decodeSingle cond w).WellFormedIn true := by
  unfold decodeSingle
  dsimp only
  split <;> cases SingleOp.ofBits (bit w 22) (bit w 20) <;> exact ⟨rfl, rfl⟩

theorem decodeBlock_wellFormed (cond : Cond) (w : Word) : (decodeBlock cond w).WellFormedIn true := by
  unfold decodeBlock
  split <;> exact ⟨rfl, rfl⟩

theorem decodeSwap_wellFormed (cond : Cond) (w : Word) : (decodeSwap cond w).WellFormedIn true := by
  unfold decodeSwap
  split <;> exact ⟨rfl, rfl⟩

theorem decodeHalf_wellFormed (cond : Cond) (w : Word) : (decodeHalf cond w).WellFormedIn true := by
  unfold decodeHalf
  dsimp only
  split <;> cases HalfOp.ofBits (bits w 6 5) (bit w 20) <;> exact ⟨rfl, rfl⟩

theorem decodeMultiply_wellFormed (cond : Cond) (w : Word) : (decodeMultiply cond w).WellFormedIn true := by
  unfold decodeMultiply
  cases MulOp.ofBits (bits w 23 21) <;> exact ⟨rfl, rfl⟩

theorem decodePsrTransfer_wellFormed (cond : Cond) (w : Word) : (decodePsrTransfer cond w).WellFormedIn true := by
  unfold decodePsrTransfer
  dsimp only
  split
  · split <;> exact ⟨rfl, rfl⟩
  · exact ⟨rfl, rfl⟩

/-- R92, R94: the wide decoder answers every word with a well-formed wide instruction. -/
theorem decodeWide_wellFormed (w : Word) : (decodeWide w).WellFormedIn true := by
  unfold decodeWide
  dsimp only
  refine iteInduction (fun _ => ⟨rfl, rfl⟩) fun _ => ?_
  refine iteInduction (fun _ => ⟨rfl, rfl⟩) fun _ => ?_
  refine iteInduction (fun _ => iteInduction (fun _ => ⟨rfl, rfl⟩) fun _ => ⟨rfl, rfl⟩) fun _ => ?_
  refine iteInduction (fun _ => decodeSingle_wellFormed _ w) fun _ => ?_
  refine iteInduction (fun _ => decodeBlock_wellFormed _ w) fun _ => ?_
  refine iteInduction (fun _ => decodeSwap_wellFormed _ w) fun _ => ?_
  refine iteInduction (fun _ => decodeHalf_wellFormed _ w) fun _ => ?_
  refine iteInduction (fun _ => decodeMultiply_wellFormed _ w) fun _ => ?_
  refine iteInduction (fun _ => ⟨rfl, rfl⟩) fun _ => ?_
  refine iteInduction (fun _ => decodePsrTransfer_wellFormed _ w) fun hpsr => ?_
  refine iteInduction (fun h => ?_) fun _ => ⟨rfl, rfl⟩
  obtain ⟨h26, h27⟩ := (run2 rfl).1 h
  exact decodeDataProcessing_wellFormed _ h27 h26 (eq_false_of_ne_true hpsr)

/-! ## Compressed formats (R112 to R131) -/

theorem decodeFormat1_wellFormed (h : Half) : (decodeFormat1 h).WellFormedIn false := by
  unfold decodeFormat1; split_ifs <;> exact ⟨rfl, rfl⟩

theorem decodeFormat2_wellFormed (h : Half) : (decodeFormat2 h).WellFormedIn false := by
  unfold decodeFormat2; split_ifs <;> exact ⟨rfl, rfl⟩

theorem decodeFormat3_wellFormed (h : Half) : (decodeFormat3 h).WellFormedIn false := by
  unfold decodeFormat3; split_ifs <;> exact ⟨rfl, rfl⟩

theorem decodeFormat4_wellFormed (h : Half) : (decodeFormat4 h).WellFormedIn false := by
  unfold decodeFormat4; dsimp only; split <;> exact ⟨rfl, rfl⟩

theorem decodeFormat5_wellFormed (h : Half) : (decodeFormat5 h).WellFormedIn false := by
  unfold decodeFormat5; dsimp only; split_ifs <;> exact ⟨rfl, rfl⟩

theorem decodeFormat7_wellFormed (h : Half) : (decodeFormat7 h).WellFormedIn false := by
  unfold decodeFormat7; split_ifs <;> exact ⟨rfl, rfl⟩

theorem decodeFormat8_wellFormed (h : Half) : (decodeFormat8 h).WellFormedIn false := by
  unfold decodeFormat8; split_ifs <;> exact ⟨rfl, rfl⟩

theorem decodeFormat9_wellFormed (h : Half) : (decodeFormat9 h).WellFormedIn false := by
  unfold decodeFormat9; split_ifs <;> exact ⟨rfl, rfl⟩

theorem decodeFormat10_wellFormed (h : Half) : (decodeFormat10 h).WellFormedIn false := by
  unfold decodeFormat10; split_ifs <;> exact ⟨rfl, rfl⟩

theorem decodeFormat11_wellFormed (h : Half) : (decodeFormat11 h).WellFormedIn false := by
  unfold decodeFormat11; split_ifs <;> exact ⟨rfl, rfl⟩

theorem decodeFormat12_wellFormed (h : Half) : (decodeFormat12 h).WellFormedIn false := by
  unfold decodeFormat12; split_ifs <;> exact ⟨rfl, rfl⟩

theorem decodeFormat13_wellFormed (h : Half) : (decodeFormat13 h).WellFormedIn false := by
  unfold decodeFormat13; split_ifs <;> exact ⟨rfl, rfl⟩

theorem decodeFormat14_wellFormed (h : Half) : (decodeFormat14 h).WellFormedIn false := by
  unfold decodeFormat14; split_ifs <;> exact ⟨rfl, rfl⟩

theorem decodeFormat15_wellFormed (h : Half) : (decodeFormat15 h).WellFormedIn false := by
  unfold decodeFormat15; split_ifs <;> exact ⟨rfl, rfl⟩

theorem decodeFormat19_wellFormed (h : Half) : (decodeFormat19 h).WellFormedIn false := by
  unfold decodeFormat19; split_ifs <;> exact ⟨rfl, rfl⟩

/-- R136: the row's condition range is what bits 11 and 10 select; 0b1110 and 0b1111 are UNDEFINED and SWI. -/
theorem decodeFormat16_wellFormed {h : Half} (h14 : (bits h 11 8 : BitVec 4) ≠ 14#4)
    (h15 : (bits h 11 8 : BitVec 4) ≠ 15#4) : (decodeFormat16 h).WellFormedIn false := by
  have h11 : bit h 11 = (bits h 11 8 : BitVec 4).getLsbD 3 := (bit_bits h 11 8 3 (by omega) (by omega)).symm
  have h10 : bit h 10 = (bits h 11 8 : BitVec 4).getLsbD 2 := (bit_bits h 11 8 2 (by omega) (by omega)).symm
  unfold decodeFormat16
  rw [h11, h10]
  generalize (bits h 11 8 : BitVec 4) = f at *
  generalize (bits h 7 0 : BitVec 8) = offset
  have key : ∀ f : BitVec 4, f ≠ 14#4 → f ≠ 15#4 →
      (f.getLsbD 3 = false → f.ult 8 = true) ∧
      (f.getLsbD 3 = true → f.getLsbD 2 = false → ((8#4).ule f && f.ult 12) = true) ∧
      (f.getLsbD 3 = true → f.getLsbD 2 = true → ((12#4).ule f && f.ult 14) = true) := by decide
  obtain ⟨k0, k8, kC⟩ := key f h14 h15
  split_ifs with h3 h2
  · refine ⟨?_, rfl⟩
    simpa [Instr.wf, Cond.toBits_ofBits] using k0 (by simpa using h3)
  · refine ⟨?_, rfl⟩
    simpa [Instr.wf, Cond.toBits_ofBits] using k8 (by simpa using h3) (by simpa using h2)
  · refine ⟨?_, rfl⟩
    simpa [Instr.wf, Cond.toBits_ofBits] using kC (by simpa using h3) (by simpa using h2)

/-- R110, R131: the compressed decoder answers every half-word with a well-formed compressed instruction. -/
theorem decodeCompressed_wellFormed (h : Half) : (decodeCompressed h).WellFormedIn false := by
  unfold decodeCompressed
  dsimp only
  refine iteInduction (fun _ => ?_) fun _ => ?_
  · exact iteInduction (fun _ => decodeFormat2_wellFormed h) fun _ => decodeFormat1_wellFormed h
  refine iteInduction (fun _ => decodeFormat3_wellFormed h) fun _ => ?_
  refine iteInduction (fun _ => ?_) fun _ => ?_
  · refine iteInduction (fun _ => ?_) fun _ => ?_
    · exact iteInduction (fun _ => decodeFormat8_wellFormed h) fun _ => decodeFormat7_wellFormed h
    refine iteInduction (fun _ => ⟨rfl, rfl⟩) fun _ => ?_
    exact iteInduction (fun _ => decodeFormat5_wellFormed h) fun _ => decodeFormat4_wellFormed h
  refine iteInduction (fun _ => decodeFormat9_wellFormed h) fun _ => ?_
  refine iteInduction (fun _ => ?_) fun _ => ?_
  · exact iteInduction (fun _ => decodeFormat11_wellFormed h) fun _ => decodeFormat10_wellFormed h
  refine iteInduction (fun _ => ?_) fun _ => ?_
  · refine iteInduction (fun _ => ?_) fun _ => decodeFormat12_wellFormed h
    refine iteInduction (fun _ => decodeFormat13_wellFormed h) fun _ => ?_
    refine iteInduction (fun _ => decodeFormat14_wellFormed h) fun _ => ?_
    exact iteInduction (fun _ => ⟨rfl, rfl⟩) fun _ => ⟨rfl, rfl⟩
  refine iteInduction (fun _ => ?_) fun _ => ?_
  · refine iteInduction (fun _ => ?_) fun _ => decodeFormat15_wellFormed h
    refine iteInduction (fun _ => ⟨rfl, rfl⟩) fun h14 => ?_
    exact iteInduction (fun _ => ⟨rfl, rfl⟩) fun h15 => decodeFormat16_wellFormed h14 h15
  · refine iteInduction (fun _ => decodeFormat19_wellFormed h) fun _ => ?_
    exact iteInduction (fun _ => ⟨rfl, rfl⟩) fun _ => ⟨rfl, rfl⟩

end Sys2Proof

section
open Sys2Proof Sys2Proof.Machine

/-- Settles O3: each decoder's steps end in well-formed instructions of its set, and no instruction of a set has a tag
that is the other set's own. -/
theorem decodedInstructionsAreWellFormed : Obligations.DecodedInstructionsAreWellFormed := by
  refine ⟨fun w => ?_, fun h => ?_⟩
  · obtain ⟨hwf, hw⟩ := decodeWide_wellFormed w
    have ht := tag_not_otherSet (decodeWide w)
    rw [hw] at ht
    exact ⟨hwf, hw, ht⟩
  · obtain ⟨hwf, hw⟩ := decodeCompressed_wellFormed h
    have ht := tag_not_otherSet (decodeCompressed h)
    rw [hw] at ht
    exact ⟨hwf, hw, ht⟩

end
end

section
/-! PROOFS. Banking (R23, R24, R27): which slots two modes share. -/

namespace Sys2Proof.Machine

/-- The register number a slot stands for, in every mode that sees it (R21). -/
def Slot.reg : Slot → Reg
  | .shared i => BitVec.ofFin i
  | .fiq i => BitVec.ofNat 4 (8 + i)
  | .irq i | .svc i | .abt i | .und i => BitVec.ofNat 4 (13 + i)

/-- The mode whose own bank a slot belongs to; `usr` stands for the shared bank (R21). -/
def Slot.bank : Slot → Mode
  | .shared _ => .usr
  | .fiq _ => .fiq
  | .irq _ => .irq
  | .svc _ => .svc
  | .abt _ => .abt
  | .und _ => .und

@[simp] theorem slot_reg (m : Mode) (i : Reg) : (slot m i).reg = i := by cases m <;> revert i <;> decide

@[simp] theorem slot_bank (m : Mode) (i : Reg) : (slot m i).bank = bankOf m i := by cases m <;> revert i <;> decide

/-- A register's slot is the one its bank's mode sees. -/
theorem slot_bankOf (m : Mode) (i : Reg) : slot (bankOf m i) i = slot m i := by cases m <;> revert i <;> decide

/-- R24: two modes share a register exactly when they hold it in the same bank. -/
theorem slot_eq_iff (m k : Mode) (i j : Reg) : slot m i = slot k j ↔ i = j ∧ bankOf m i = bankOf k j := by
  constructor
  · intro h
    exact ⟨by simpa using congrArg Slot.reg h, by simpa using congrArg Slot.bank h⟩
  · rintro ⟨rfl, hb⟩
    rw [← slot_bankOf m, hb, slot_bankOf]

/-- R24: User mode has no bank of its own. -/
@[simp] theorem bankOf_usr (i : Reg) : bankOf .usr i = .usr := by simp [bankOf]

/-- R24: what is not shared is held in the mode's own bank. -/
theorem bankOf_eq_self {m : Mode} {r : Reg} (h : bankOf m r ≠ .usr) : bankOf m r = m := by
  unfold bankOf at h ⊢
  split_ifs at h ⊢ with hf
  · exact hf.1.symm
  · rfl
  · exact absurd rfl h

/-- R24: a banked register of another mode is none that User mode sees. -/
theorem slot_ne_usr {m : Mode} {r : Reg} (h : bankOf m r ≠ .usr) (i : Reg) : slot m r ≠ slot .usr i := by
  rw [ne_eq, slot_eq_iff, bankOf_usr]
  rintro ⟨rfl, hb⟩
  exact h hb

/-- R28: r15 is in no mode's own bank. -/
theorem slot_ne_pcSlot {m : Mode} {r : Reg} (h : bankOf m r ≠ .usr) : slot m r ≠ pcSlot := slot_ne_usr h 15

end Sys2Proof.Machine

section
open Sys2Proof Sys2Proof.Machine

/-- Settles O14: both modes name one slot exactly when register and bank agree; a mode switch copies nothing. -/
theorem registerBanking : Obligations.RegisterBanking := by
  intro s m k i j v hi hj
  rw [x_eq _ j hj, x_eq _ j hj, setX_eq _ i v hi]
  simp only [State.inMode, withCpsr_cpsr, withCpsr_readSlot, readSlot_writeSlot]
  refine if_congr ((slot_eq_iff k m j i).trans ?_) rfl rfl
  constructor
  · rintro ⟨rfl, h⟩
    exact ⟨rfl, h.symm⟩
  · rintro ⟨rfl, h⟩
    exact ⟨rfl, h.symm⟩

end
end

section
/-! PROOFS. What an instruction that answers a next state can have done, said once for all 148 constructors: a run of
ordinary updates, or one of the few transfers that change the status word's control bits. -/

namespace Sys2Proof.Machine

/-! ## Ordinary updates -/

/-- The updates that an ordinary instruction of width `w` is made of: none changes the mode, I, F or T. -/
inductive Update (w : Word) : State → State → Prop
  | advance (s : State) : Update w s (s.advance w)
  | branchTo (s : State) (v : Word) : Update w s (s.branchTo v)
  | setX (s : State) (i : Reg) (v : Word) : Update w s (s.setX i v)
  | setXu (s : State) {i : Reg} (hi : i ≠ 15) (v : Word) : Update w s (s.setXu i v)
  | memWrite (s : State) (a : Word) (sz : Size) (v : Word) : Update w s (s.memWrite a sz v)
  | setFlags (s : State) (n z c v : Bool) : Update w s (s.withCpsr { s.cpsr with n := n, z := z, c := c, v := v })

/-- A run of ordinary updates. -/
abbrev Updates (w : Word) : State → State → Prop := Relation.ReflTransGen (Update w)

namespace Updates

variable {w : Word} {s t : State}

theorem advance (s : State) : Updates w s (s.advance w) := .single (.advance s)

theorem branchTo (h : Updates w s t) (v : Word) : Updates w s (t.branchTo v) := h.tail (.branchTo t v)

theorem setX (h : Updates w s t) (i : Reg) (v : Word) : Updates w s (t.setX i v) := h.tail (.setX t i v)

theorem memWrite (h : Updates w s t) (a : Word) (sz : Size) (v : Word) : Updates w s (t.memWrite a sz v) :=
  h.tail (.memWrite t a sz v)

theorem writeBase (h : Updates w s t) (wb : Bool) (rn : Reg) (v : Word) : Updates w s (t.writeBase wb rn v) := by
  cases wb
  · exact h
  · exact h.setX rn v

theorem setAlu (h : Updates w s t) (out : AluOut) (sc : Bool) : Updates w s (t.withCpsr (t.cpsr.setAlu out sc)) := by
  cases out with
  | logical r => exact h.tail (.setFlags t _ _ _ t.cpsr.v)
  | arith r c v => exact h.tail (.setFlags t _ _ _ _)

theorem setMul (h : Updates w s t) (r : Word) (free : Nat) : Updates w s (t.withCpsr (t.cpsr.setMul r free)) :=
  h.tail (.setFlags t _ _ _ t.cpsr.v)

theorem setMulLong (h : Updates w s t) (r : BitVec 64) (free : Nat) :
    Updates w s (t.withCpsr (t.cpsr.setMulLong r free)) :=
  h.tail (.setFlags t _ _ _ _)

theorem setLoaded (h : Updates w s t) (ub : Bool) (l : List (Reg × Word)) : Updates w s (t.setLoaded ub l) := by
  induction l generalizing t with
  | nil => exact h
  | cons e l ih =>
    apply ih
    split_ifs with hi
    · exact h
    · exact h.tail (.setXu t hi _)
    · exact h.setX _ _

theorem storeList (h : Updates w s t) (value : Reg → Word) (l : List (Reg × Word)) :
    Updates w s (t.storeList value l) := by
  induction l generalizing t with
  | nil => exact h
  | cons e l ih => exact ih (h.memWrite _ _ _)

theorem aluCommit (sf writes : Bool) (rd : Reg) (out : AluOut) (sc : Bool) (s : State) :
    Updates w s (aluCommit w sf writes rd out sc s) := by
  have ha := advance (w := w) s
  cases sf <;> cases writes
  · exact ha
  · exact ha.setX _ _
  · exact ha.setAlu _ _
  · exact (ha.setAlu _ _).setX _ _

end Updates

/-! ## The effects of an instruction -/

/-- R12: everything an instruction can have done when it answers a next state. -/
inductive Effect (i : Instr) (s : State) : State → Prop
  /-- ordinary updates only -/
  | updates {t : State} (h : Updates i.width s t) : Effect i s t
  /-- R282, R333: branch and exchange -/
  | exchange (v : Word) : Effect i s (s.exchange v)
  /-- R283, R395: the supervisor call -/
  | supervisorCall (h : i.tag = .swi) : Effect i s (s.supervisorCall i.width)
  /-- R290, R410: the undefined-instruction trap -/
  | undefinedTrap (h : i.tag = .undefined) : Effect i s (s.undefinedTrap i.width)
  /-- R430: return through the SPSR of the current mode, after ordinary updates -/
  | exceptionReturn {u : State} {p : Psr} (h : Updates i.width s u) (hp : u.spsr = some p) (v : Word) :
    Effect i s (u.restore p v)
  /-- R231: a status-register write to the CPSR, by a wide instruction -/
  | writeCpsr (hw : i.width = 4) (fmask : BitVec 4) (v : Word) :
    Effect i s ((s.advance 4).withCpsr (s.cpsr.merge (msrCpsrMask s.cpsr.mode fmask) v))
  /-- R231: a status-register write to the SPSR of the current mode, by a wide instruction -/
  | writeSpsr (hw : i.width = 4) (hp : s.spsr ≠ none) (p : Psr) :
    Effect i s ((s.advance 4).setSpsrOf s.cpsr.mode p)

section Families
variable {i : Instr} {s t : State}

/-- R12, R170: a failed condition advances; so only the body's effect is to be shown. -/
theorem whenPassed_effect {cond : Cond} {body : Result} (hw : i.width = 4) (h : whenPassed cond s body = .next t)
    (hb : body = .next t → Effect i s t) : Effect i s t := by
  cases hc : conditionPassed cond s.cpsr
  · rw [whenPassed_false hc] at h
    cases h
    exact .updates (hw ▸ .advance s)
  · rw [whenPassed_true hc] at h
    exact hb h

/-- A return through an SPSR that answers a next state found one. -/
theorem exceptionReturn_effect {u : State} {v : Word} (hu : Updates i.width s u)
    (h : u.exceptionReturn v = .next t) : Effect i s t := by
  unfold State.exceptionReturn at h
  split at h
  · cases h
  · next p hp => cases h; exact .exceptionReturn hu hp v

theorem dataProcessing_effect {f : AluFn} {writes sf : Bool} {cond : Cond} {rn rd : Reg} {o : Op2}
    (hw : i.width = 4) (h : dataProcessing f writes cond sf rn rd o s = .next t) : Effect i s t := by
  refine whenPassed_effect hw h fun hb => ?_
  dsimp only at hb
  split at hb
  · exact exceptionReturn_effect .refl hb
  · cases hb
    exact .updates (hw ▸ .aluCommit ..)

theorem compressedAlu_effect {f : AluFn} {writes : Bool} {rd : LowReg} {a : Word} {b : Word × Bool} (hw : i.width = 2)
    (h : compressedAlu f writes rd a b s = .next t) : Effect i s t := by
  cases h
  exact .updates (hw ▸ .aluCommit ..)

/-- R240, R245, R250: the guard of a transfer only refuses. -/
theorem transferGuard_next {o : Offset} {p w : Bool} {rn : Reg} {body : Result}
    (h : transferGuard o p w rn body = .next t) : body = .next t := by
  unfold transferGuard at h
  split_ifs at h
  exact h

theorem loadTransfer_effect {load : State → Word → Word} {cond : Cond} {p u w : Bool} {rn rd : Reg} {o : Offset}
    (hw : i.width = 4) (h : loadTransfer load cond p u w rn rd o s = .next t) : Effect i s t := by
  refine whenPassed_effect hw h fun hb => ?_
  cases transferGuard_next hb
  exact .updates (hw ▸ ((Updates.advance s).writeBase ..).setX ..)

theorem storeTransfer_effect {sz : Size} {cond : Cond} {p u w : Bool} {rn rd : Reg} {o : Offset}
    (hw : i.width = 4) (h : storeTransfer sz cond p u w rn rd o s = .next t) : Effect i s t := by
  refine whenPassed_effect hw h fun hb => ?_
  cases transferGuard_next hb
  exact .updates (hw ▸ ((Updates.advance s).memWrite ..).writeBase ..)

theorem swap_effect {sz : Size} {cond : Cond} {rn rd rm : Reg} (hw : i.width = 4)
    (h : swap sz cond rn rd rm s = .next t) : Effect i s t := by
  refine whenPassed_effect hw h fun hb => ?_
  split_ifs at hb
  cases hb
  exact .updates (hw ▸ ((Updates.advance s).memWrite ..).setX ..)

theorem compressedLoad_effect {load : State → Word → Word} {rd : LowReg} {a : Word} (hw : i.width = 2)
    (h : compressedLoad load rd a s = .next t) : Effect i s t := by
  cases h
  exact .updates (hw ▸ (Updates.advance s).setX ..)

theorem compressedStore_effect {sz : Size} {rd : LowReg} {a : Word} (hw : i.width = 2)
    (h : compressedStore sz rd a s = .next t) : Effect i s t := by
  cases h
  exact .updates (hw ▸ (Updates.advance s).memWrite ..)

theorem blockLoad_effect {width : Word} {p u sb w : Bool} {rn : Reg} {rlist : BitVec 16} (hw : i.width = width)
    (h : blockLoad width p u sb w rn rlist s = .next t) : Effect i s t := by
  subst hw
  unfold blockLoad at h
  dsimp only at h
  generalize hu : (if w && !(blockRegs rlist).contains rn then _ else _ : State) = u at h
  have hs : Updates i.width s u := by
    have hl := fun ub l => (Updates.advance (w := i.width) s).setLoaded ub l
    subst hu
    split
    · exact (hl _ _).setX ..
    · exact hl _ _
  split at h
  · cases h
  split at h
  · cases h
  split at h
  · cases h
    exact .updates hs
  · split at h
    · exact exceptionReturn_effect hs h
    · cases h
      exact .updates (hs.branchTo _)

theorem blockStore_effect {width storedPc : Word} {p u sb w : Bool} {rn : Reg} {rlist : BitVec 16}
    (hw : i.width = width) (h : blockStore width storedPc p u sb w rn rlist s = .next t) : Effect i s t := by
  subst hw
  unfold blockStore at h
  dsimp only at h
  split_ifs at h
  · cases h
    exact .updates (((Updates.advance s).storeList ..).setX ..)
  · cases h
    exact .updates ((Updates.advance s).storeList ..)

theorem multiplyShort_effect {cond : Cond} {sf : Bool} {regs : List Reg} {rd : Reg} {r : Word} (hw : i.width = 4)
    (h : multiplyShort cond sf regs rd r s = .next t) : Effect i s t := by
  refine whenPassed_effect hw h fun hb => .updates ?_
  have ha := Updates.advance (w := 4) s
  rw [hw]
  split_ifs at hb <;> cases hb
  · exact (ha.setMul ..).setX ..
  · exact ha.setX ..

theorem multiplyLong_effect {cond : Cond} {sf : Bool} {rd rn rs rm : Reg} {r : BitVec 64} (hw : i.width = 4)
    (h : multiplyLong cond sf rd rn rs rm r s = .next t) : Effect i s t := by
  refine whenPassed_effect hw h fun hb => .updates ?_
  have ha := Updates.advance (w := 4) s
  rw [hw]
  split_ifs at hb <;> cases hb
  · exact ((ha.setMulLong ..).setX ..).setX ..
  · exact (ha.setX ..).setX ..

theorem execMrs_effect {cond : Cond} {psr : PsrSel} {rd : Reg} (hw : i.width = 4)
    (h : execMrs cond psr rd s = .next t) : Effect i s t := by
  refine whenPassed_effect hw h fun hb => .updates (hw ▸ ?_)
  split at hb
  · cases hb
    exact (Updates.advance s).setX ..
  · split at hb <;> cases hb
    exact (Updates.advance s).setX ..

theorem msrWrite_effect {cond : Cond} {psr : PsrSel} {fmask : BitVec 4} {v : Word} (hw : i.width = 4)
    (h : msrWrite cond psr fmask v s = .next t) : Effect i s t := by
  refine whenPassed_effect hw h fun hb => ?_
  dsimp only at hb
  split at hb
  · cases hb
    exact .writeCpsr hw fmask v
  · split at hb <;> cases hb
    next p hp => exact .writeSpsr hw (by simp [hp]) _

theorem compressedCondBranch_effect {cond : Cond} {offset : BitVec 8} (hw : i.width = 2)
    (h : compressedCondBranch cond offset s = .next t) : Effect i s t := by
  unfold compressedCondBranch compressedBranch at h
  split_ifs at h <;> cases h
  · exact .updates (.branchTo .refl _)
  · exact .updates (hw ▸ .advance s)

/-- R12, R46: every instruction's effect, family by family. -/
theorem exec_effect (h : exec i s = .next t) : Effect i s t := by
  cases i
  case bx cond rn => exact whenPassed_effect rfl h fun hb => by cases hb; exact .exchange _
  case swi cond comment => exact whenPassed_effect rfl h fun hb => by cases hb; exact .supervisorCall rfl
  case undefined cond => exact whenPassed_effect rfl h fun hb => by cases hb; exact .undefinedTrap rfl
  case b cond offset => exact whenPassed_effect rfl h fun hb => by cases hb; exact .updates (.branchTo .refl _)
  case bl cond offset =>
    exact whenPassed_effect rfl h fun hb => by cases hb; exact .updates (.branchTo (.setX .refl ..) _)
  case ldrImm | ldrReg | ldrbImm | ldrbReg | ldrhImm | ldrhReg | ldrsbImm | ldrsbReg | ldrshImm | ldrshReg =>
    exact loadTransfer_effect rfl h
  case strImm | strReg | strbImm | strbReg | strhImm | strhReg => exact storeTransfer_effect rfl h
  case ldm => exact whenPassed_effect rfl h (blockLoad_effect rfl)
  case stm => exact whenPassed_effect rfl h (blockStore_effect rfl)
  case swp | swpb => exact swap_effect rfl h
  case mul | mla => exact multiplyShort_effect rfl h
  case umull | umlal | smull | smlal => exact multiplyLong_effect rfl h
  case mulhalf => exact whenPassed_effect rfl h nofun
  case mrs => exact execMrs_effect rfl h
  case msrReg | msrImm => exact msrWrite_effect rfl h
  case andImm | andShiftImm | andShiftReg | eorImm | eorShiftImm | eorShiftReg | subImm | subShiftImm | subShiftReg
      | rsbImm | rsbShiftImm | rsbShiftReg | addImm | addShiftImm | addShiftReg | adcImm | adcShiftImm | adcShiftReg
      | sbcImm | sbcShiftImm | sbcShiftReg | rscImm | rscShiftImm | rscShiftReg | tstImm | tstShiftImm | tstShiftReg
      | teqImm | teqShiftImm | teqShiftReg | cmpImm | cmpShiftImm | cmpShiftReg | cmnImm | cmnShiftImm | cmnShiftReg
      | orrImm | orrShiftImm | orrShiftReg | movImm | movShiftImm | movShiftReg | bicImm | bicShiftImm | bicShiftReg
      | mvnImm | mvnShiftImm | mvnShiftReg => exact dataProcessing_effect rfl h
  case cLslImm | cLsrImm | cAsrImm | cAddReg | cAddImm3 | cSubReg | cSubImm3 | cMovImm8 | cCmpImm8 | cAddImm8
      | cSubImm8 | cAnd | cEor | cLslReg | cLsrReg | cAsrReg | cAdc | cSbc | cRorReg | cTst | cNeg | cCmp | cCmn
      | cOrr | cBic | cMvn => exact compressedAlu_effect rfl h
  case cCmpHi => cases h; exact .updates (.aluCommit ..)
  case cMul => cases h; exact .updates (((Updates.advance s).setMul ..).setX ..)
  case cAddHi | cMovHi | cAddPc | cAddSp | cAddSpImm | cSubSpImm | cBlh1 =>
    cases h; exact .updates ((Updates.advance s).setX ..)
  case cBx => cases h; exact .exchange _
  case cLdrPc | cLdrReg | cLdrbReg | cLdrhReg | cLdrsbReg | cLdrshReg | cLdrImm | cLdrbImm | cLdrhImm | cLdrSp =>
    exact compressedLoad_effect rfl h
  case cStrReg | cStrbReg | cStrhReg | cStrImm | cStrbImm | cStrhImm | cStrSp => exact compressedStore_effect rfl h
  case cPop r rlist => exact blockLoad_effect (width := 2) rfl (show execCPop r rlist s = _ from h)
  case cLdmia rn rlist => exact blockLoad_effect (width := 2) rfl (show execCLdmia rn rlist s = _ from h)
  case cPush r rlist => exact blockStore_effect (width := 2) rfl (show execCPush r rlist s = _ from h)
  case cStmia rn rlist => exact blockStore_effect (width := 2) rfl (show execCStmia rn rlist s = _ from h)
  case cBcond0 | cBcond8 | cBcondC => exact compressedCondBranch_effect rfl h
  case cSwi => cases h; exact .supervisorCall rfl
  case cUndefined => cases h; exact .undefinedTrap rfl
  case cBkpt => cases h
  case cB => cases h; exact .updates (.branchTo .refl _)
  case cBlh2 => cases h; exact .updates (.branchTo (.setX .refl ..) _)

end Families

end Sys2Proof.Machine
end

section
/-! PROOFS. What every effect keeps: the machine's invariant (R30, R67), and in User mode the privileged state (R39,
R440). -/

namespace Sys2Proof.Machine

/-! ## Alignment (R30) -/

/-- R30: an address the encoding `t` selects can execute from. -/
def aligned (t : Bool) (v : Word) : Bool := if t then v.toNat % 2 == 0 else v.toNat % 4 == 0

theorem inv_iff (s : State) : s.Inv ↔ s.mem.wf = true ∧ aligned s.cpsr.t s.pc = true := Iff.rfl

/-- R30: what a write of r15 leaves is aligned. -/
theorem aligned_alignPc (t : Bool) (v : Word) : aligned t (alignPc t v) = true := by
  cases t
  · have h := Nat.and_mod_two_pow (a := v.toNat) (b := 0xFFFFFFFC) (n := 2)
    simpa [aligned, alignPc] using h
  · have h := Nat.and_mod_two_pow (a := v.toNat) (b := 0xFFFFFFFE) (n := 1)
    simpa [aligned, alignPc] using h

/-- R31: the advance by the encoding's own width keeps alignment. -/
theorem aligned_add {t : Bool} {v : Word} (h : aligned t v = true) : aligned t (v + if t then 2 else 4) = true := by
  cases t <;> simp [aligned] at h ⊢ <;> omega

/-- A word address is aligned for both encodings. -/
theorem aligned_of_wide {v : Word} (h : aligned false v = true) (t : Bool) : aligned t v = true := by
  cases t <;> simp [aligned] at h ⊢ <;> omega

/-! ## The invariant -/

theorem Update.keeps_t {w : Word} {s t : State} (h : Update w s t) : t.cpsr.t = s.cpsr.t := by
  cases h <;> simp

theorem Update.keeps_inv {w : Word} {s t : State} (h : Update w s t) (hw : w = if s.cpsr.t then 2 else 4)
    (hs : s.Inv) : t.Inv := by
  obtain ⟨hm, hp⟩ := (inv_iff s).1 hs
  rw [inv_iff]
  cases h with
  | advance => exact ⟨by simpa, by simpa [hw] using aligned_add hp⟩
  | branchTo => exact ⟨by simpa, by simp [aligned_alignPc]⟩
  | setX i v =>
    refine ⟨by simpa, ?_⟩
    rw [setX_cpsr, setX_pc_cases]
    split_ifs
    · exact aligned_alignPc _ _
    · exact hp
  | setXu hi => exact ⟨by simpa, by simpa [setXu_pc _ _ _ hi] using hp⟩
  | memWrite => exact ⟨memWrite_wf _ _ _ _ hm, by simpa using hp⟩
  | setFlags => exact ⟨by simpa, by simpa using hp⟩

theorem Updates.keeps_inv {w : Word} {s t : State} (h : Updates w s t) (hw : w = if s.cpsr.t then 2 else 4)
    (hs : s.Inv) : t.Inv ∧ t.cpsr.t = s.cpsr.t := by
  induction h with
  | refl => exact ⟨hs, rfl⟩
  | tail _ hu ih =>
    obtain ⟨hi, ht⟩ := ih
    exact ⟨hu.keeps_inv (by rw [ht, hw]) hi, hu.keeps_t.trans ht⟩

theorem restore_inv {s : State} (hm : s.mem.wf = true) (p : Psr) (v : Word) : (s.restore p v).Inv := by
  obtain ⟨hc, hp, -⟩ := restore_spec s p v
  rw [inv_iff, hc, hp]
  exact ⟨by simpa [State.restore] using hm, aligned_alignPc _ _⟩

theorem takeException_inv {s : State} {m : Mode} (h : (s.spsrOf m).isSome) (hm : s.mem.wf = true) (vec w : Word) :
    (s.takeException m vec w).Inv := by
  obtain ⟨-, -, hc, hp, -⟩ := takeException_spec s m vec w h
  rw [inv_iff, hc, hp]
  exact ⟨by simpa [State.takeException] using hm, aligned_alignPc _ _⟩

/-- R30, R67: the effect of an instruction of the encoding T selects keeps the invariant. -/
theorem Effect.keeps_inv {i : Instr} {s t : State} (h : Effect i s t) (hi : i.isWide = !s.cpsr.t) (hs : s.Inv) :
    t.Inv := by
  have hw : i.width = if s.cpsr.t then 2 else 4 := by
    rw [Instr.width, hi]; cases s.cpsr.t <;> rfl
  obtain ⟨hm, hp⟩ := (inv_iff s).1 hs
  cases h with
  | updates h => exact (h.keeps_inv hw hs).1
  | exchange v => exact restore_inv hm _ v
  | supervisorCall => exact takeException_inv rfl hm _ _
  | undefinedTrap => exact takeException_inv rfl hm _ _
  | exceptionReturn h _ v => exact restore_inv (h.keeps_inv hw hs).1.1 _ v
  | writeCpsr h4 fmask v =>
    have ht : s.cpsr.t = false := by
      cases ht : s.cpsr.t
      · rfl
      · rw [ht, h4] at hw; exact absurd hw (by decide)
    rw [ht] at hp
    exact ⟨by simpa using hm, aligned_of_wide (by simpa using aligned_add hp) _⟩
  | writeSpsr h4 =>
    rw [inv_iff, setSpsrOf_cpsr, advance_cpsr, setSpsrOf_pc, advance_pc, ← h4, hw]
    exact ⟨by simpa using hm, aligned_add hp⟩

/-- R66: a fetch answers an instruction of the set that T selects. -/
theorem fetch_isWide (s : State) : s.fetch.isWide = !s.cpsr.t := by
  unfold State.fetch
  cases s.cpsr.t
  · exact (decodeWide_wellFormed _).2
  · exact (decodeCompressed_wellFormed _).2

/-! ## User mode (R39, R440) -/

/-- R23, R24, R39: the state only privileged code may change: the mode, I and F, every saved status word and every
banked register. -/
structure KeepsPrivileged (s t : State) : Prop where
  mode : t.cpsr.mode = s.cpsr.mode
  irqOff : t.cpsr.irqOff = s.cpsr.irqOff
  fiqOff : t.cpsr.fiqOff = s.cpsr.fiqOff
  spsrOf : ∀ m, t.spsrOf m = s.spsrOf m
  readSlot : ∀ m r, bankOf m r ≠ .usr → t.readSlot (slot m r) = s.readSlot (slot m r)

theorem KeepsPrivileged.refl (s : State) : KeepsPrivileged s s := ⟨rfl, rfl, rfl, fun _ => rfl, fun _ _ _ => rfl⟩

theorem KeepsPrivileged.trans {s t u : State} (h : KeepsPrivileged s t) (h' : KeepsPrivileged t u) :
    KeepsPrivileged s u :=
  ⟨h'.mode.trans h.mode, h'.irqOff.trans h.irqOff, h'.fiqOff.trans h.fiqOff,
    fun m => (h'.spsrOf m).trans (h.spsrOf m), fun m r hr => (h'.readSlot m r hr).trans (h.readSlot m r hr)⟩

/-- What changes no register but those User mode sees, and no saved status word, keeps the privileged state where the
control bits stay. -/
theorem KeepsPrivileged.of_frame {s t : State} {regs : List Reg} {stored : List Word}
    (hf : Frame s t (regs.map (slot .usr)) [] stored) (hm : t.cpsr.mode = s.cpsr.mode)
    (hi : t.cpsr.irqOff = s.cpsr.irqOff) (hq : t.cpsr.fiqOff = s.cpsr.fiqOff) : KeepsPrivileged s t := by
  obtain ⟨hreg, hspsr, -, -⟩ := hf
  refine ⟨hm, hi, hq, fun m => hspsr m List.not_mem_nil, fun m r hr => hreg _ ?_ (slot_ne_pcSlot hr)⟩
  rw [List.mem_map]
  rintro ⟨i, -, h⟩
  exact slot_ne_usr hr i h.symm

theorem Update.keepsPrivileged {w : Word} {s t : State} (h : Update w s t) (hu : s.cpsr.mode = .usr) :
    KeepsPrivileged s t := by
  cases h with
  | advance => exact .of_frame (regs := []) (frame_advance s w) (by simp) (by simp) (by simp)
  | branchTo v => exact .of_frame (regs := []) (frame_branchTo s v) (by simp) (by simp) (by simp)
  | setX i v =>
    have hf := frame_setX s i v
    rw [State.here, hu] at hf
    exact .of_frame (regs := [i]) hf (by simp) (by simp) (by simp)
  | @setXu i _ v => exact .of_frame (regs := [i]) (frame_writeSlot s _ v) (by simp) (by simp) (by simp)
  | memWrite a sz v => exact .of_frame (regs := []) (frame_memWrite s a sz v) (by simp) (by simp) (by simp)
  | setFlags n z c v => exact .of_frame (regs := []) (frame_withCpsr s _) rfl rfl rfl

theorem Updates.keepsPrivileged {w : Word} {s t : State} (h : Updates w s t) (hu : s.cpsr.mode = .usr) :
    KeepsPrivileged s t := by
  induction h with
  | refl => exact .refl s
  | tail _ hs ih => exact ih.trans (hs.keepsPrivileged (ih.mode.trans hu))

/-- R39: in User mode a status-register write reaches the flags only. -/
theorem merge_usr (p : Psr) (fmask : BitVec 4) (v : Word) :
    (p.merge (msrCpsrMask .usr fmask) v).mode = p.mode ∧ (p.merge (msrCpsrMask .usr fmask) v).irqOff = p.irqOff ∧
      (p.merge (msrCpsrMask .usr fmask) v).fiqOff = p.fiqOff := by
  rw [msrCpsrMask_eq, merge_spec]
  simp

/-- R39, R440: in User mode only the two traps touch privileged state. -/
theorem Effect.userMode {i : Instr} {s t : State} (h : Effect i s t) (hu : s.cpsr.mode = .usr) :
    KeepsPrivileged s t ∨ (i.tag = .swi ∧ t = s.supervisorCall i.width) ∨
      (i.tag = .undefined ∧ t = s.undefinedTrap i.width) := by
  cases h with
  | updates h => exact .inl (h.keepsPrivileged hu)
  | exchange v =>
    obtain ⟨hc, -, hf⟩ := exchange_spec s v
    exact .inl (.of_frame (regs := []) hf (by rw [hc]) (by rw [hc]) (by rw [hc]))
  | supervisorCall h => exact .inr (.inl ⟨h, rfl⟩)
  | undefinedTrap h => exact .inr (.inr ⟨h, rfl⟩)
  | exceptionReturn h hp =>
    rw [State.spsr, (h.keepsPrivileged hu).mode, hu] at hp
    cases hp
  | writeCpsr _ fmask v =>
    rw [hu]
    obtain ⟨hm, hi, hq⟩ := merge_usr s.cpsr fmask v
    exact .inl (.of_frame (regs := []) ((frame_advance s 4).trans (frame_withCpsr _ _)) hm hi hq)
  | writeSpsr _ hp =>
    rw [State.spsr, hu] at hp
    exact absurd rfl hp

theorem eq_swi_of_tag {i : Instr} (h : i.tag = .swi) : (∃ cond c, i = .swi cond c) ∨ ∃ c, i = .cSwi c := by
  cases i <;> cases h
  · exact .inl ⟨_, _, rfl⟩
  · exact .inr ⟨_, rfl⟩

theorem eq_undefined_of_tag {i : Instr} (h : i.tag = .undefined) : (∃ cond, i = .undefined cond) ∨ i = .cUndefined := by
  cases i <;> cases h
  · exact .inl ⟨_, rfl⟩
  · exact .inr rfl

theorem takeException_mode (s : State) (m : Mode) (vec w : Word) : (s.takeException m vec w).cpsr.mode = m := by
  simp [State.takeException]

/-- R424: a trap writes, of the banked registers and saved status words, those of the mode entered. -/
theorem takeException_banked {s : State} {m : Mode} (h : (s.spsrOf m).isSome) (vec w : Word) :
    let t := s.takeException m vec w
    (∀ (k : Mode) (r : Reg), bankOf k r ≠ .usr → ¬(k = t.cpsr.mode ∧ r = 14) →
      t.readSlot (slot k r) = s.readSlot (slot k r)) ∧
    ∀ k, k ≠ t.cpsr.mode → t.spsrOf k = s.spsrOf k := by
  obtain ⟨-, -, -, -, hreg, hspsr, -, -⟩ := takeException_spec s m vec w h
  simp only [takeException_mode]
  refine ⟨fun k r hr hkr => hreg _ ?_ (slot_ne_pcSlot hr), fun k hk => hspsr k (by simpa using hk)⟩
  rw [List.mem_singleton, slot_eq_iff]
  rintro ⟨rfl, hb⟩
  have hk := bankOf_eq_self hr
  rw [hb] at hr hk
  exact hkr ⟨hk.symm.trans (bankOf_eq_self hr), rfl⟩

end Sys2Proof.Machine

section
open Sys2Proof Sys2Proof.Machine

/-- Settles O55: the step executes an instruction of the set T selects, and every effect of such a one keeps the
invariant. -/
theorem stepKeepsInvariant : Obligations.StepKeepsInvariant := by
  intro s t hs h
  have hf : s.tick.fetch.isWide = !s.tick.tick.cpsr.t := fetch_isWide s.tick
  have hs' : s.tick.tick.Inv := by simpa [inv_iff] using (inv_iff s).1 hs
  exact (exec_effect h).keeps_inv hf hs'

/-- Settles O58: in User mode an effect keeps the control bits or is one of the traps. -/
theorem userModeLeftOnlyByTrap : Obligations.UserModeLeftOnlyByTrap := by
  intro i s t hu h
  rcases (exec_effect h).userMode hu with hk | ⟨ht, rfl⟩ | ⟨ht, rfl⟩
  · exact .inl ⟨hk.mode.trans hu, hk.irqOff, hk.fiqOff⟩
  · exact .inr (.inl ⟨takeException_mode .., eq_swi_of_tag ht⟩)
  · exact .inr (.inr ⟨takeException_mode .., eq_undefined_of_tag ht⟩)

/-- Settles O59: in User mode an effect keeps the banked state or is a trap, which writes its own mode's only. -/
theorem userModeLeavesPrivateState : Obligations.UserModeLeavesPrivateState := by
  intro i s t hu h
  rcases (exec_effect h).userMode hu with hk | ⟨-, rfl⟩ | ⟨-, rfl⟩
  · exact ⟨fun m r hr _ => hk.readSlot m r hr, fun m _ => hk.spsrOf m⟩
  · exact takeException_banked rfl _ _
  · exact takeException_banked rfl _ _

end
end

section
/-! PROOFS. The adder as exact arithmetic (R160, R161) and what a data-processing operation computes (R180 to R198). -/

namespace Sys2Proof.Machine

/-! ## The adder (R160, R161) -/

theorem toNat_carryIn (c : Bool) : (carryIn c).toNat = c.toNat := by cases c <;> rfl

/-- R160: the adder's result. -/
theorem addWithCarry_fst (x y : Word) (c : Bool) : (addWithCarry x y c).1 = x + y + carryIn c := by
  apply BitVec.eq_of_toNat_eq
  simp [addWithCarry, toNat_carryIn]

/-- R141: the top bit is the sign. -/
theorem bit31_eq (r : Word) : bit r 31 = decide (r.toInt < 0) := by
  rw [← BitVec.msb_eq_toInt, BitVec.msb_eq_getLsbD_last]
  rfl

/-- R160: the overflow is set exactly when the signed sum does not fit. -/
theorem addWithCarry_overflow (x y : Word) (c : Bool) :
    (addWithCarry x y c).2.2 = decide (x.toInt + y.toInt + c.toNat ≠ (x + y + carryIn c).toInt) := by
  have hr : (x + y + carryIn c).toNat = (x.toNat + y.toNat + c.toNat) % 2 ^ 32 := by simp [toNat_carryIn]
  have hv : (addWithCarry x y c).2.2 = (bit x 31 == bit y 31 && bit (x + y + carryIn c) 31 != bit x 31) := by
    rw [← addWithCarry_fst]
    rfl
  have hc := c.toNat_lt
  rw [hv, bit31_eq, bit31_eq, bit31_eq, Bool.eq_iff_iff]
  generalize x + y + carryIn c = r at hr
  simp only [BitVec.toInt_eq_toNat_cond, Bool.and_eq_true, beq_iff_eq, bne_iff_ne, ne_eq, decide_eq_decide,
    decide_eq_true_eq]
  omega

theorem ofAdder_add (x y : Word) (c : Bool) :
    AluOut.ofAdder (addWithCarry x y c) =
      .arith (x + y + carryIn c) (decide (2 ^ 32 ≤ x.toNat + y.toNat + c.toNat))
        (decide (x.toInt + y.toInt + c.toNat ≠ (x + y + carryIn c).toInt)) := by
  rw [AluOut.ofAdder, addWithCarry_fst, addWithCarry_overflow]
  rfl

/-- R161: subtraction is addition of the complement. -/
theorem ofAdder_sub (x y : Word) (c : Bool) :
    AluOut.ofAdder (addWithCarry x (~~~y) c) =
      .arith (x - y - (1 - carryIn c)) (decide (y.toNat + 1 ≤ x.toNat + c.toNat))
        (decide (x.toInt - y.toInt - (1 - c.toNat) ≠ (x - y - (1 - carryIn c)).toInt)) := by
  have hn : (~~~y).toInt = -y.toInt - 1 := by
    have := y.isLt
    rw [BitVec.toInt_eq_toNat_cond, BitVec.toInt_eq_toNat_cond, BitVec.toNat_not]
    omega
  have hr : x + ~~~y + carryIn c = x - y - (1 - carryIn c) := by
    generalize carryIn c = k
    bv_omega
  have hv : x.toInt + (~~~y).toInt + c.toNat = x.toInt - y.toInt - (1 - c.toNat) := by rw [hn]; ring
  have hc : 2 ^ 32 ≤ x.toNat + (~~~y).toNat + c.toNat ↔ y.toNat + 1 ≤ x.toNat + c.toNat := by
    have := y.isLt
    rw [BitVec.toNat_not]
    omega
  rw [ofAdder_add, hr, hv, decide_eq_decide.2 hc]

/-! ## The sixteen operations (R180 to R198) -/

/-- The model's ALU operation; TST, TEQ, CMP and CMN share those of AND, EOR, SUB and ADD. -/
def dpAlu : DpOp → AluFn
  | .and | .tst => aluAnd
  | .eor | .teq => aluEor
  | .sub | .cmp => aluSub
  | .rsb => aluRsb
  | .add | .cmn => aluAdd
  | .adc => aluAdc
  | .sbc => aluSbc
  | .rsc => aluRsc
  | .orr => aluOrr
  | .mov => aluMov
  | .bic => aluBic
  | .mvn => aluMvn

/-- R104, R180: each of the 48 constructors runs the shared frame with its operation. -/
theorem exec_dpInstr (op : DpOp) (cond : Cond) (sf : Bool) (rn rd : Reg) (o : Op2) (s : State) :
    exec (op.instr cond sf rn rd o) s = dataProcessing (dpAlu op) op.writes cond sf rn rd o s := by
  cases o <;> cases op <;> rfl

theorem tag_dpInstr (op : DpOp) (cond : Cond) (sf : Bool) (rn rd : Reg) (o : Op2) :
    (op.instr cond sf rn rd o).tag = op.tag := by
  cases o <;> cases op <;> rfl

theorem alu_logical {op : DpOp} {a b : Word} {c : Bool} (h : op.exact a b c = none) :
    dpAlu op a b c = .logical (op.value a b c) := by
  cases op
  case and | eor | tst | teq | orr | mov | bic | mvn => rfl
  all_goals cases h

theorem alu_arith {op : DpOp} {a b : Word} {c : Bool} {e : Int} (h : op.exact a b c = some e) :
    dpAlu op a b c = .arith (op.value a b c) (op.carry a b c) (decide (e ≠ (op.value a b c).toInt)) := by
  have hadd := ofAdder_add
  have hsub := ofAdder_sub
  cases op <;> cases h
  case adc => exact hadd a b c
  case sbc => exact hsub a b c
  case rsc => exact hsub b a c
  case add | cmn => simpa [carryIn, dpAlu, aluAdd, DpOp.value, DpOp.carry] using hadd a b false
  case sub | cmp => simpa [carryIn, dpAlu, aluSub, DpOp.value, DpOp.carry] using hsub a b true
  case rsb => simpa [carryIn, dpAlu, aluRsb, DpOp.value, DpOp.carry] using hsub b a true

/-- The result of each operation. -/
theorem alu_result (op : DpOp) (a b : Word) (c : Bool) : (dpAlu op a b c).result = op.value a b c := by
  cases h : op.exact a b c with
  | none => rw [alu_logical h]; rfl
  | some e => rw [alu_arith h]; rfl

/-- R163, R180: the flags of each operation. -/
theorem setAlu_alu (op : DpOp) (a b : Word) (c sc : Bool) (p : Psr) :
    p.setAlu (dpAlu op a b c) sc = op.flags a b c sc p := by
  cases h : op.exact a b c with
  | none => simp [alu_logical h, DpOp.flags, h, Psr.setAlu, Psr.setLogical, bit31_eq, beq_eq_decide]
  | some e => simp [alu_arith h, DpOp.flags, h, Psr.setAlu, Psr.setArith, bit31_eq, beq_eq_decide]

/-- R180: what committing an operation's outcome leaves, with S or without, in an instruction of `w` bytes. -/
theorem aluCommit_dp {op : DpOp} {rd : Reg} (hd : op.writes = true → rd ≠ 15) (w : Word) (sf : Bool) (a b : Word)
    (c sc : Bool) (s : State) :
    let t := aluCommit w sf op.writes rd (dpAlu op a b c) sc s
    (op.writes = true → t.readSlot (s.here rd) = op.value a b c) ∧
      t.cpsr = (if sf then op.flags a b c sc s.cpsr else s.cpsr) ∧
      t.pc = s.pc + w ∧ Frame s t (if op.writes then [s.here rd] else []) [] [] := by
  have h := aluCommit_spec w sf op.writes rd (dpAlu op a b c) sc s hd
  rwa [alu_result, setAlu_alu] at h

/-- R180: with a destination other than r15, each of the 48 constructors commits its operation's outcome. -/
theorem exec_dpInstr_passed {op : DpOp} {cond : Cond} {rd : Reg} {s : State} (hc : conditionPassed cond s.cpsr = true)
    (hd : op.writes = true → rd ≠ 15) (sf : Bool) (rn : Reg) (o : Op2) :
    exec (op.instr cond sf rn rd o) s = .next (aluCommit 4 sf op.writes rd
      (dpAlu op (s.reg rn (op2PcOffset o)) (operand2 o s).1 s.cpsr.c) (operand2 o s).2 s) := by
  rw [exec_dpInstr, dataProcessing_passed _ _ _ _ hc hd]

/-- R180: register and flags after an operation that writes, `b` being its second operand. -/
theorem exec_dpInstr_writes {op : DpOp} {cond : Cond} {rd : Reg} {s : State} {o : Op2} {b : Word × Bool}
    (hc : conditionPassed cond s.cpsr = true) (hw : op.writes = true) (hd : rd ≠ 15) (hb : operand2 o s = b)
    (sf : Bool) (rn : Reg) :
    ∃ t, exec (op.instr cond sf rn rd o) s = .next t ∧
      t.readSlot (s.here rd) = op.value (s.reg rn (op2PcOffset o)) b.1 s.cpsr.c ∧
      t.cpsr = if sf then op.flags (s.reg rn (op2PcOffset o)) b.1 s.cpsr.c b.2 s.cpsr else s.cpsr := by
  subst hb
  obtain ⟨hr, hcpsr, -⟩ := aluCommit_dp (op := op) (fun _ => hd) 4 sf (s.reg rn (op2PcOffset o)) (operand2 o s).1
    s.cpsr.c (operand2 o s).2 s
  exact ⟨_, exec_dpInstr_passed hc (fun _ => hd) sf rn o, hr hw, hcpsr⟩

/-- R181: with r15 as the destination of an operation that writes, data-processing branches, or with S returns. -/
theorem exec_dpInstr_pc {op : DpOp} {cond : Cond} {s : State} (hc : conditionPassed cond s.cpsr = true)
    (hw : op.writes = true) (sf : Bool) (rn : Reg) (o : Op2) :
    exec (op.instr cond sf rn 15 o) s =
      if sf then s.exceptionReturn (op.value (s.reg rn (op2PcOffset o)) (operand2 o s).1 s.cpsr.c)
      else .next (aluCommit 4 false true 15
        (dpAlu op (s.reg rn (op2PcOffset o)) (operand2 o s).1 s.cpsr.c) (operand2 o s).2 s) := by
  rw [exec_dpInstr, dataProcessing, whenPassed_true hc, hw, ← alu_result]
  cases sf <;> rfl

end Sys2Proof.Machine

section
open Sys2Proof Sys2Proof.Machine

/-- Settles O20: each constructor commits its operation's outcome, which is the exact arithmetic. -/
theorem dataProcessingResult : Obligations.DataProcessingResult := by
  intro op cond sf rn rd o s hc hd
  exact ⟨tag_dpInstr op cond sf rn rd o, _, exec_dpInstr_passed hc hd sf rn o, aluCommit_dp hd 4 sf _ _ _ _ s⟩

/-- Settles O21: the commit to r15 with S clear is a branch to the result. -/
theorem dataProcessingBranch : Obligations.DataProcessingBranch := by
  refine ⟨fun _ _ => rfl, fun op cond rn o s hc hw => ?_⟩
  obtain ⟨hcpsr, hpc, hf⟩ := aluCommit_pc 4 (dpAlu op (s.reg rn (op2PcOffset o)) (operand2 o s).1 s.cpsr.c)
    (operand2 o s).2 s
  rw [alu_result] at hpc
  exact ⟨_, exec_dpInstr_pc hc hw false rn o, hpc, hcpsr, hf⟩

/-- Settles O22: with S it is the exception return of R430, which the mode's SPSR decides. -/
theorem dataProcessingReturn : Obligations.DataProcessingReturn := by
  intro op cond rn o s hc hw
  have he := exec_dpInstr_pc hc hw true rn o
  rw [if_pos rfl] at he
  refine ⟨fun p hp => ?_, fun hm => he.trans (exceptionReturn_none s _ hm)⟩
  obtain ⟨hcpsr, hpc, hf⟩ := restore_spec s p (op.value (s.reg rn (op2PcOffset o)) (operand2 o s).1 s.cpsr.c)
  exact ⟨_, he.trans (exceptionReturn_some s _ hp), hcpsr, hpc, hf⟩

/-- Settles O60: the three forms are the shifter on `reg`'s reads; the four instructions commit with them. -/
theorem secondOperandForms : Obligations.SecondOperandForms := by
  intro cond rn rd rm rs shamt kind rot imm s read byImm byReg rotated
  have hreg : operand2 (.shiftReg rs kind rm) s = byReg := operand2_shiftReg rs kind rm s
  refine ⟨?_, rfl, hreg, rfl, rfl, rfl, fun hc hd => ⟨?_, ?_, ?_, ?_⟩⟩
  · rw [BitVec.msb_eq_getLsbD_last]
    rfl
  · exact exec_dpInstr_writes (op := .add) (o := .shiftImm shamt kind rm) hc rfl hd rfl false rn
  · exact exec_dpInstr_writes (op := .add) hc rfl hd hreg false rn
  · obtain ⟨t, ht, hr, hcpsr⟩ := exec_dpInstr_writes (op := .mov) (o := .shiftImm shamt kind rm) hc rfl hd rfl true rn
    exact ⟨t, ht, hr, by rw [hcpsr]; rfl, by rw [hcpsr]; rfl⟩
  · obtain ⟨t, ht, hr, hcpsr⟩ := exec_dpInstr_writes (op := .mov) hc rfl hd hreg true rn
    exact ⟨t, ht, hr, by rw [hcpsr]; rfl, by rw [hcpsr]; rfl⟩

/-- Settles O46: each of the twenty commits the outcome of the wide operation it names. -/
theorem compressedAluResult : Obligations.CompressedAluResult := by
  intro rs rd rn rm hs hd i3 i8 s
  simp only [← xc_lowReg, List.forall_mem_cons]
  have alu : ∀ {i : Instr} {op : DpOp} {r : Reg} {a b : Word}, (op.writes = true → r ≠ 15) → i.tag = op.tag →
      exec i s = .next (aluCommit 2 true op.writes r (dpAlu op a b s.cpsr.c) s.cpsr.c s) →
      i.tag = op.tag ∧ ∃ t, exec i s = .next t ∧ (op.writes = true → t.readSlot (s.here r) = op.value a b s.cpsr.c) ∧
        t.cpsr = op.flags a b s.cpsr.c s.cpsr.c s.cpsr ∧ t.pc = s.pc + 2 ∧
        Frame s t (if op.writes then [s.here r] else []) [] [] :=
    fun hr ht he => ⟨ht, _, he, aluCommit_dp hr 2 true _ _ _ _ s⟩
  have low := fun {i : Instr} {op : DpOp} {a b : Word} => alu (i := i) (op := op) (a := a) (b := b)
    fun _ => lowReg_ne_pc rd
  exact ⟨low rfl rfl, low rfl rfl, low rfl rfl, low rfl rfl, low rfl rfl, low rfl rfl, low rfl rfl, low rfl rfl,
    low rfl rfl, low rfl rfl, low rfl rfl, low rfl rfl, low rfl rfl, low rfl rfl, low rfl rfl, low rfl rfl,
    low rfl rfl, low rfl rfl, low rfl rfl, alu nofun rfl rfl, List.forall_mem_nil _⟩

end
end

section
/-! PROOFS. The status word (R33 to R36), its transfers (R230 to R233), and reset (R42, R461). -/

namespace Sys2Proof.Machine

/-! ## The modes and the packed word (R33 to R36) -/

theorem ofBits_enc (m : Mode) : Mode.ofBits m.enc = m := by cases m <;> rfl

/-- R35: an encoding of no mode reads as User. -/
theorem ofBits_unknown {v : BitVec 5} (h : ∀ m : Mode, m.enc ≠ v) : Mode.ofBits v = .usr := by
  have hne : ∀ m : Mode, v ≠ m.enc := fun m => (h m).symm
  exact (if_neg (hne .fiq)).trans <| (if_neg (hne .irq)).trans <| (if_neg (hne .svc)).trans <|
    (if_neg (hne .abt)).trans <| (if_neg (hne .und)).trans <| if_neg (hne .sys)

/-- R33: unpacking reads the mode from bits 4:0. -/
theorem unpack_mode (w : Word) : (Psr.unpack w).mode = Mode.ofBits (w.extractLsb' 0 5) := by
  rw [← bits_eq w 4 0 rfl]
  rfl

/-- R34: a packed word is its flag bits and its mode's encoding. -/
theorem pack_eq (p : Psr) : p.pack = flag 32 p.n 31 ||| flag 32 p.z 30 ||| flag 32 p.c 29 ||| flag 32 p.v 28
    ||| flag 32 p.irqOff 7 ||| flag 32 p.fiqOff 6 ||| flag 32 p.t 5 ||| p.mode.enc.setWidth 32 := by
  rw [Psr.pack, place, BitVec.shiftLeft_zero]

/-- R36: the seven flag bits of a word, put back where they stood, are the word under their mask. -/
theorem flags_eq_and (w : Word) : flag 32 (bit w 31) 31 ||| flag 32 (bit w 30) 30 ||| flag 32 (bit w 29) 29
    ||| flag 32 (bit w 28) 28 ||| flag 32 (bit w 7) 7 ||| flag 32 (bit w 6) 6 ||| flag 32 (bit w 5) 5
    = w &&& 0xF00000E0#32 := by
  apply BitVec.eq_of_getLsbD_eq
  intro i hi
  change bit _ i = bit _ i
  simp only [bit_or, bit_flag]
  interval_cases i <;> simp [bit]

/-- R36: the flag bits and the mode field together. -/
theorem and_or_mode (w : Word) :
    (w &&& 0xF00000E0#32) ||| (w.extractLsb' 0 5).setWidth 32 = w &&& 0xF00000FF#32 := by
  apply BitVec.eq_of_getLsbD_eq
  intro i hi
  interval_cases i <;> simp

theorem pack_unpack (w : Word) : (Psr.unpack w).pack =
    (w &&& 0xF00000E0#32) ||| (Mode.ofBits (w.extractLsb' 0 5)).enc.setWidth 32 := by
  rw [pack_eq, unpack_mode, ← flags_eq_and]
  rfl

/-- The mode field of a packed word. -/
theorem mode_pack (p : Psr) : p.pack.extractLsb' 0 5 = p.mode.enc := by
  obtain ⟨-, -, -, -, -, -, -, h⟩ := fields_pack p
  rwa [bits_eq p.pack 4 0 rfl] at h

theorem unpack_pack (p : Psr) : Psr.unpack p.pack = p := by
  obtain ⟨hn, hz, hc, hv, hi, hf, ht, hm⟩ := fields_pack p
  rw [Psr.unpack, hn, hz, hc, hv, hi, hf, ht, hm, ofBits_enc]

/-- R34: the packed word as a sum of its fields. -/
theorem pack_toNat (p : Psr) : p.pack.toNat = 2 ^ 31 * p.n.toNat + 2 ^ 30 * p.z.toNat + 2 ^ 29 * p.c.toNat
    + 2 ^ 28 * p.v.toNat + 2 ^ 7 * p.irqOff.toNat + 2 ^ 6 * p.fiqOff.toNat + 2 ^ 5 * p.t.toNat
    + p.mode.enc.toNat := by
  obtain ⟨n, z, c, v, i, f, t, m⟩ := p
  cases m <;> revert n z c v i f t <;> decide

/-! ## MRS and MSR (R230, R231) -/

theorem spsr_eq_none {s : State} (h : s.cpsr.mode = .usr ∨ s.cpsr.mode = .sys) : s.spsr = none := by
  rcases h with h | h <;> rw [State.spsr, h] <;> rfl

section
variable {cond : Cond} {s : State} (hc : conditionPassed cond s.cpsr = true)
include hc

/-- R230: MRS of the CPSR. -/
theorem execMrs_cpsr (rd : Reg) : execMrs cond .cpsr rd s = .next ((s.advance 4).setX rd s.cpsr.pack) :=
  whenPassed_true hc _

/-- R230: MRS of the current mode's SPSR. -/
theorem execMrs_spsr {p : Psr} (h : s.spsr = some p) (rd : Reg) :
    execMrs cond .spsr rd s = .next ((s.advance 4).setX rd p.pack) := by
  refine (whenPassed_true hc _).trans ?_
  simp only [h]

/-- R37: MRS without an SPSR. -/
theorem execMrs_refused (h : s.spsr = none) (rd : Reg) : execMrs cond .spsr rd s = .refused .noSpsr := by
  refine (whenPassed_true hc _).trans ?_
  simp only [h]

/-- R231: MSR to the CPSR. -/
theorem msrWrite_cpsr (fmask : BitVec 4) (v : Word) : msrWrite cond .cpsr fmask v s =
    .next ((s.advance 4).withCpsr (s.cpsr.merge (msrCpsrMask s.cpsr.mode fmask) v)) :=
  whenPassed_true hc _

/-- R231: MSR to the current mode's SPSR. -/
theorem msrWrite_spsr {p : Psr} (h : s.spsr = some p) (fmask : BitVec 4) (v : Word) : msrWrite cond .spsr fmask v s =
    .next ((s.advance 4).setSpsrOf s.cpsr.mode (p.merge (msrMask fmask) v)) := by
  refine (whenPassed_true hc _).trans ?_
  simp only [h]

/-- R37: MSR without an SPSR. -/
theorem msrWrite_refused (h : s.spsr = none) (fmask : BitVec 4) (v : Word) :
    msrWrite cond .spsr fmask v s = .refused .noSpsr := by
  refine (whenPassed_true hc _).trans ?_
  simp only [h]

end

end Sys2Proof.Machine

section
open Sys2Proof Sys2Proof.Machine

/-- Settles O12: field by field; the packed word is the sum of its fields. -/
theorem statusWordLayout : Obligations.StatusWordLayout := by
  refine ⟨fun w => ?_, pack_toNat, ⟨rfl, rfl, rfl, rfl, rfl, rfl, rfl⟩, ofBits_enc, fun _ => ofBits_unknown⟩
  rw [← unpack_mode]
  rfl

/-- Settles O13: packing after unpacking keeps what has storage, unpacking after packing is the identity. -/
theorem statusWordRoundTrip : Obligations.StatusWordRoundTrip := by
  refine ⟨pack_unpack, fun w m h => ?_, fun w h => ?_, unpack_pack⟩
  · rw [pack_unpack, h, ofBits_enc, ← h]
    exact and_or_mode w
  · rw [mode_pack, unpack_mode, ofBits_unknown fun m => (h m).symm]
    rfl

/-- Settles O28: MRS writes the packed word it names, as every flagless result is written. -/
theorem mrsReadsStatus : Obligations.MrsReadsStatus := by
  intro cond rd s hc
  refine ⟨fun sel p h => ?_, fun hm => execMrs_refused hc (spsr_eq_none hm) rd⟩
  have he : exec (.mrs cond sel rd) s = .next ((s.advance 4).setX rd p.pack) := by
    rcases h with ⟨rfl, rfl⟩ | ⟨rfl, hp⟩
    · exact execMrs_cpsr hc rd
    · exact execMrs_spsr hc hp rd
  obtain ⟨hreg, hpc, hcpsr, hf⟩ := advance_setX_spec s 4 rd p.pack
  exact ⟨_, he, hreg, hpc, hcpsr, hf⟩

/-- Settles O29: both forms merge the bits that the mask and the mode allow. -/
theorem msrWritesCpsr : Obligations.MsrWritesCpsr := by
  intro cond fmask rot imm rm s hc e he
  have hi : exec e.1 s = msrWrite cond .cpsr fmask e.2 s := by
    simp only [List.mem_cons, List.not_mem_nil, or_false] at he
    rcases he with rfl | rfl <;> rfl
  refine ⟨_, hi.trans (msrWrite_cpsr hc fmask e.2), ?_, advance_pc s 4, (frame_advance s 4).trans (frame_withCpsr _ _)⟩
  rw [msrCpsrMask_eq, merge_spec]
  rfl

/-- Settles O30: both forms merge the masked bits into the SPSR that the mode has. -/
theorem msrWritesSpsr : Obligations.MsrWritesSpsr := by
  intro cond fmask rot imm rm s hc e he
  have hi : exec e.1 s = msrWrite cond .spsr fmask e.2 s := by
    simp only [List.mem_cons, List.not_mem_nil, or_false] at he
    rcases he with rfl | rfl <;> rfl
  refine ⟨fun p hp => ?_, fun hm => hi.trans (msrWrite_refused hc (spsr_eq_none hm) fmask e.2)⟩
  refine ⟨_, hi.trans (msrWrite_spsr hc hp fmask e.2), ?_, by simp, by simp,
    (frame_advance s 4).trans (frame_setSpsrOf _ _ _)⟩
  have hsome : ((s.advance 4).spsrOf s.cpsr.mode).isSome := by rw [advance_spsrOf, hp]; rfl
  exact (setSpsrOf_same _ _ _ hsome).trans (congrArg some (merge_spec p _ _ _))

/-- Settles O6: the ten words. -/
theorem sampleWordsDecode : Obligations.SampleWordsDecode :=
  ⟨rfl, rfl, rfl, rfl, rfl, rfl, rfl, rfl, rfl, rfl, rfl, rfl, rfl, rfl, rfl⟩

/-- Settles O56: nothing is listed in memory and address 0 is aligned. -/
theorem resetHasInvariant : Obligations.ResetHasInvariant := ⟨rfl, rfl⟩

/-- Settles O57: the fields of RESET_PC and RESET_CPSR. -/
theorem resetControlState : Obligations.ResetControlState := ⟨rfl, rfl, rfl, rfl, rfl⟩

end
end

section
/-! PROOFS. Loads (R240 to R254) and block loads (R265, R266) whose condition passes. -/

namespace Sys2Proof.Machine

/-! ## Loads (R240 to R254) -/

/-- R253: a signed byte load extends the byte read. -/
theorem loadSignedByte_eq (s : State) (a : Word) : loadSignedByte s a = (s.load8 a).signExtend 32 := by
  rw [loadSignedByte, State.memRead, BitVec.setWidth_setWidth_of_le _ (by decide), BitVec.setWidth_eq]

/-- R254: a signed half-word load extends the half-word read. -/
theorem loadSignedHalf_eq (s : State) (a : Word) : loadSignedHalf s a = (s.load16 a).signExtend 32 := by
  rw [loadSignedHalf, State.memRead, BitVec.setWidth_setWidth_of_le _ (by decide), BitVec.setWidth_eq]

/-- R240: what a load answers whose condition passes and whose operands are not refused. -/
theorem loadTransfer_passed {cond : Cond} {s : State} {o : Offset} {p w : Bool} {rn : Reg}
    (hc : conditionPassed cond s.cpsr = true) (ho : offsetIsPc o = false) (hn : writesBack p w = true → rn ≠ 15)
    (load : State → Word → Word) (u : Bool) (rd : Reg) :
    loadTransfer load cond p u w rn rd o s =
      .next (((s.advance 4).writeBase (writesBack p w) rn (transferTarget u (s.x rn) (offsetValue o s))).setX rd
        (load s (transferAddr p u (s.x rn) (offsetValue o s)))) := by
  rw [loadTransfer, whenPassed_true hc, transferGuard_ok ho hn]

/-- R30, R240: a load into r15 is a branch. -/
theorem loadTransfer_pc {cond : Cond} {s : State} {o : Offset} {p w : Bool} {rn : Reg}
    (hc : conditionPassed cond s.cpsr = true) (ho : offsetIsPc o = false) (hn : writesBack p w = true → rn ≠ 15)
    (load : State → Word → Word) (u : Bool) :
    ∃ t, loadTransfer load cond p u w rn 15 o s = .next t ∧
      t.pc = alignPc s.cpsr.t (load s (transferAddr p u (s.x rn) (offsetValue o s))) ∧
      (writesBack p w = true → t.readSlot (s.here rn) = transferTarget u (s.x rn) (offsetValue o s)) ∧
      t.cpsr = s.cpsr ∧ Frame s t (if writesBack p w = true then [s.here rn] else []) [] [] := by
  obtain ⟨-, hpc, hbase, hcpsr, hf⟩ := load_state_spec s (writesBack p w) rn 15
    (transferTarget u (s.x rn) (offsetValue o s)) (load s (transferAddr p u (s.x rn) (offsetValue o s))) hn
  refine ⟨_, loadTransfer_passed hc ho hn load u 15, hpc rfl, fun h => hbase h (hn h), hcpsr, hf.mono ?_ ?_ ?_⟩
  · cases writesBack p w <;> simp
  · simp
  · simp

/-! ## Block loads (R265, R266) -/

/-- R266: the words a block load reads, written to the bank it names; r15 is left to the caller. -/
theorem setLoaded_blockPlan (s : State) (width : Word) (ub p u : Bool) (base : Word) (rlist : BitVec 16) :
    let t := (s.advance width).setLoaded ub (loadList s (blockPlan p u base rlist))
    (∀ i, transferred rlist i → i ≠ 15 →
      t.readSlot (s.loadSlot ub i) = s.load32 (blockAddr (blockStart p u base rlist) rlist i)) ∧
    t.cpsr = s.cpsr ∧ t.pc = s.pc + width ∧ Frame s t ((transferredRegs rlist).map (s.loadSlot ub)) [] [] := by
  have hslot : ∀ i, (s.advance width).loadSlot ub i = s.loadSlot ub i := fun i => by simp [State.loadSlot]
  have hregs : (loadList s (blockPlan p u base rlist)).map Prod.fst = blockRegs rlist := by
    rw [loadList, List.map_map, ← blockAddrs_map_fst (blockRegs rlist) (blockStart p u base rlist)]
    rfl
  obtain ⟨hcpsr, hpc, -, -, hf⟩ := setLoaded_frame ub (s.advance width) (loadList s (blockPlan p u base rlist))
  refine ⟨fun i hi h15 => ?_, by simpa using hcpsr, by simpa using hpc, ?_⟩
  · rw [← hslot i]
    refine setLoaded_read ub _ _ (hregs ▸ nodup_blockRegs rlist) i _ ?_ h15
    exact List.mem_map.2 ⟨_, (mem_blockPlan p u base rlist i _).2 ⟨hi, rfl⟩, rfl⟩
  · refine ((frame_advance s width).trans hf).mono (fun σ hσ => .inl ?_) (by simp) (by simp)
    rw [← blockRegs_eq, ← hregs, List.map_map]
    simpa [hslot] using hσ

/-- R268: with S set, r15 unlisted and no write-back, a block load writes the User bank; only an empty list, which
transfers r15 (R270), branches. -/
theorem blockLoad_userBank {rn : Reg} {rlist : BitVec 16} (hn : rn ≠ 15) (h15 : rlist.getLsbD 15 = false)
    (width : Word) (p u : Bool) (s : State) :
    let t := (s.advance width).setLoaded true (loadList s (blockPlan p u (s.x rn) rlist))
    blockLoad width p u true false rn rlist s =
      .next (if rlist = 0 then t.branchTo (s.load32 (blockAddr (blockStart p u (s.x rn) rlist) rlist 15)) else t) := by
  obtain ⟨hin, hout⟩ := lookup_loadList s p u (s.x rn) rlist 15
  have hub : bit rlist 15 = false := h15
  have ht : transferred rlist 15 ↔ rlist = 0 := by
    unfold transferred
    split_ifs with h
    · simp [h]
    · exact ⟨fun h' => absurd (h15.symm.trans h') nofun, fun h' => absurd h' h⟩
  unfold blockLoad
  simp only [hub]
  by_cases h : rlist = 0
  · rw [if_neg hn, if_pos h, hin (ht.2 h)]
    rfl
  · rw [if_neg hn, if_neg h, hout (mt ht.1 h)]
    rfl

end Sys2Proof.Machine

section
open Sys2Proof Sys2Proof.Machine

/-- Settles O32: the ten loads are the shared one, on their own offset and access. -/
theorem loadsIntoProgramCounter : Obligations.LoadsIntoProgramCounter := by
  intro cond p u w rn imm12 imm8 shamt kind rm s hc hm hn
  simp only [← writesBack_iff, List.forall_mem_cons] at hn ⊢
  simp only [← loadSignedByte_eq, ← loadSignedHalf_eq]
  have key := fun (load : State → Word → Word) (o : Offset) (ho : offsetIsPc o = false) =>
    loadTransfer_pc hc ho hn load u
  have hr : (rm == 15) = false := beq_false_of_ne hm
  exact ⟨key loadWord (.imm (imm12.setWidth 32)) rfl, key loadWord (.shifted shamt kind rm) hr,
    key loadByte (.imm (imm12.setWidth 32)) rfl, key loadByte (.shifted shamt kind rm) hr,
    key loadHalf (.imm (imm8.setWidth 32)) rfl, key loadHalf (.plain rm) hr,
    key loadSignedByte (.imm (imm8.setWidth 32)) rfl, key loadSignedByte (.plain rm) hr,
    key loadSignedHalf (.imm (imm8.setWidth 32)) rfl, key loadSignedHalf (.plain rm) hr, List.forall_mem_nil _⟩

/-- Settles O37: the loaded words go to the User bank; an empty list transfers r15 alone, as a branch. -/
theorem loadMultipleUserBank : Obligations.LoadMultipleUserBank := by
  intro cond rn rlist s hc hn h15 e he
  obtain ⟨hlow, -⟩ := mem_blockForms he
  have hx : exec (.ldm cond e.1 e.2.1 true false rn rlist) s = _ :=
    (whenPassed_true hc _).trans (blockLoad_userBank hn h15 4 e.1 e.2.1 s)
  obtain ⟨hregs, hcpsr, hpc, hf⟩ := setLoaded_blockPlan s 4 true e.1 e.2.1 (s.x rn) rlist
  rw [← hlow] at hx hregs
  generalize (s.advance 4).setLoaded true (loadList s (blockPlan e.1 e.2.1 (s.x rn) rlist)) = t
    at hx hregs hcpsr hpc hf
  refine ⟨_, hx, ?_⟩
  split_ifs with h0
  · refine ⟨fun i hi hi15 => ?_, fun _ => by rw [branchTo_pc, hcpsr], fun h => absurd h0 h,
      (branchTo_cpsr ..).trans hcpsr, (hf.trans (frame_branchTo t _)).mono (fun σ hσ => .inl ?_) (by simp) (by simp)⟩
    · rw [branchTo_readSlot _ _ (by simpa using hi15)]
      exact hregs i hi hi15
    · rwa [List.append_nil] at hσ
  · exact ⟨hregs, fun h => absurd h h0, fun _ => hpc, hcpsr, hf⟩

end
end

section
/-! PROOFS. Memory accesses: what a store writes and a load composes, big-endian (R60 to R78), what an access outside
plain memory does (R71, R421), and the loads into a register (R240 to R254). -/

namespace Sys2Proof.Machine

/-! ## Big-endian composition (R62) -/

/-- An append is a sum: its high part counts multiples of the low part's range. -/
theorem toNat_append_eq_add {m n : Nat} (x : BitVec m) (y : BitVec n) :
    (x ++ y).toNat = 2 ^ n * x.toNat + y.toNat := by
  rw [BitVec.toNat_append, ← Nat.shiftLeft_add_eq_or_of_lt y.isLt, Nat.shiftLeft_eq, Nat.mul_comm]

theorem load16_toNat (s : State) (a : Word) :
    (s.load16 a).toNat = 2 ^ 8 * (s.load8 a).toNat + (s.load8 (a + 1)).toNat :=
  toNat_append_eq_add _ _

theorem load32_toNat (s : State) (a : Word) :
    (s.load32 a).toNat = 2 ^ 24 * (s.load8 a).toNat + 2 ^ 16 * (s.load8 (a + 1)).toNat
      + 2 ^ 8 * (s.load8 (a + 2)).toNat + (s.load8 (a + 3)).toNat := by
  have h : (s.load32 a).toNat = 2 ^ 16 * (s.load16 a).toNat + (s.load16 (a + 2)).toNat := toNat_append_eq_add _ _
  have h3 : a + 2 + 1 = a + 3 := BitVec.add_assoc a 2 1
  rw [h, load16_toNat, load16_toNat, h3]
  omega

/-! ## What a store to plain memory leaves (R64) -/

/-- R64: the bytes of a store, most significant first. -/
theorem Size.getElem_split (sz : Size) (v : Word) {k : Nat} (hk : k < sz.bytes) :
    (sz.split v)[k]'(by simpa using hk) = v.extractLsb' (8 * (sz.bytes - 1 - k)) 8 := by
  cases sz <;> simp only [Size.bytes] at hk
  case byte =>
    interval_cases k
    exact bits_eq v 7 0 rfl
  case half =>
    interval_cases k
    · exact (bits_bits v 15 0 15 8 (by decide) (by decide)).trans (bits_eq v 15 8 rfl)
    · exact (bits_bits v 15 0 7 0 (by decide) (by decide)).trans (bits_eq v 7 0 rfl)
  case word =>
    interval_cases k
    · exact bits_eq v 31 24 rfl
    · exact bits_eq v 23 16 rfl
    · exact bits_eq v 15 8 rfl
    · exact bits_eq v 7 0 rfl

section
variable {s : State} {a : Word} {sz : Size} (v : Word) (hw : s.mem.wf = true) (hp : s.plain (span a sz.bytes))
include hw hp

/-- R64: byte `k` of what a store wrote. -/
theorem load8_memWrite (k : Nat) (hk : k < sz.bytes) :
    (s.memWrite a sz v).load8 (a + BitVec.ofNat 32 k) = v.extractLsb' (8 * (sz.bytes - 1 - k)) 8 := by
  have hb : sz.bytes ≤ 2 ^ 32 := by cases sz <;> decide
  rw [memWrite_eq, load8_storeBytes_at s a (sz.split v) k (by simpa using hk) (by simpa using hb) hw
    (by simpa using hp), Size.getElem_split sz v hk]

/-- R62: a half-word inside what a store wrote, aligned or not. -/
theorem load16_memWrite (k : Nat) (hk : k + 1 < sz.bytes) :
    (s.memWrite a sz v).load16 (a + BitVec.ofNat 32 k) = v.extractLsb' (8 * (sz.bytes - 2 - k)) 16 := by
  have hnext : a + BitVec.ofNat 32 k + 1 = a + BitVec.ofNat 32 (k + 1) := by
    rw [BitVec.ofNat_add, ← BitVec.add_assoc]
    rfl
  have hlow : 8 * (sz.bytes - 1 - (k + 1)) = 8 * (sz.bytes - 2 - k) := by omega
  rw [State.load16, hnext, load8_memWrite v hw hp k (by omega), load8_memWrite v hw hp (k + 1) hk, hlow]
  exact BitVec.extractLsb'_append_extractLsb'_eq_extractLsb' (by omega)

theorem load8_memWrite_first : (s.memWrite a sz v).load8 a = v.extractLsb' (8 * (sz.bytes - 1)) 8 := by
  have h := load8_memWrite v hw hp 0 (by cases sz <;> decide)
  rwa [BitVec.add_zero] at h

theorem load16_memWrite_first (h2 : 1 < sz.bytes) :
    (s.memWrite a sz v).load16 a = v.extractLsb' (8 * (sz.bytes - 2)) 16 := by
  have h := load16_memWrite v hw hp 0 h2
  rwa [BitVec.add_zero] at h

/-- R64: the same access reads back as much of the value as was stored. -/
theorem memRead_memWrite_toNat : ((s.memWrite a sz v).memRead a sz).toNat = v.toNat % 2 ^ (8 * sz.bytes) := by
  cases sz with
  | byte =>
    rw [State.memRead, BitVec.toNat_setWidth_of_le (by decide), load8_memWrite_first v hw hp]
    exact BitVec.extractLsb'_toNat ..
  | half =>
    rw [State.memRead, BitVec.toNat_setWidth_of_le (by decide), load16_memWrite_first v hw hp (by decide)]
    exact BitVec.extractLsb'_toNat ..
  | word =>
    have h2 : (s.memWrite a .word v).load16 (a + 2) = v.extractLsb' 0 16 := load16_memWrite v hw hp 2 (by decide)
    have hv : (s.memWrite a .word v).memRead a .word = v := by
      rw [State.memRead, State.load32, load16_memWrite_first v hw hp (by decide), h2]
      exact (BitVec.extractLsb'_append_extractLsb'_eq_extractLsb' rfl).trans BitVec.extractLsb'_eq_self
    rw [hv]
    exact (Nat.mod_eq_of_lt v.isLt).symm

end

/-! ## Outside plain memory (R71, R421) -/

theorem load8_unmapped {s : State} {a : Word} (h : kindAt s.bus a = .unmapped) : s.load8 a = 0 := by
  rw [State.load8, h]

theorem storeBytes_eq_self (l : List Byte) (s : State) (a : Word)
    (h : ∀ b ∈ span a l.length, kindAt s.bus b ≠ .ram) : s.storeBytes a l = s := by
  induction l generalizing a with
  | nil => rfl
  | cons v l ih =>
    rw [List.length_cons, span, List.forall_mem_cons] at h
    obtain ⟨ha, hl⟩ := h
    rw [State.storeBytes, store8_eq_self s a v ha, ih (a + 1) hl]

/-! ## Loads into a register (R240 to R254) -/

/-- R240: a load into a register other than r15; the loaded value wins where the register is also the base. -/
theorem loadTransfer_register {cond : Cond} {s : State} {o : Offset} {p w : Bool} {rn rd : Reg}
    (hc : conditionPassed cond s.cpsr = true) (hd : rd ≠ 15) (ho : offsetIsPc o = false)
    (hn : writesBack p w = true → rn ≠ 15) (load : State → Word → Word) (u : Bool) :
    ∃ t, loadTransfer load cond p u w rn rd o s = .next t ∧
      t.readSlot (s.here rd) = load s (transferAddr p u (s.x rn) (offsetValue o s)) ∧
      (writesBack p w = true → rn ≠ rd → t.readSlot (s.here rn) = transferTarget u (s.x rn) (offsetValue o s)) ∧
      t.cpsr = s.cpsr ∧ t.pc = s.pc + 4 ∧
      Frame s t (if writesBack p w = true then [s.here rd, s.here rn] else [s.here rd]) [] [] := by
  obtain ⟨hreg, -, hbase, hcpsr, hf⟩ := load_state_spec s (writesBack p w) rn rd
    (transferTarget u (s.x rn) (offsetValue o s)) (load s (transferAddr p u (s.x rn) (offsetValue o s))) hn
  obtain ⟨hval, hpc⟩ := hreg hd
  exact ⟨_, loadTransfer_passed hc ho hn load u rd, hval, hbase, hcpsr, hpc, hf⟩

end Sys2Proof.Machine

section
open Sys2Proof Sys2Proof.Machine

/-- Settles O31: the ten loads are the shared one, on their own offset and access. -/
theorem loadsIntoRegister : Obligations.LoadsIntoRegister := by
  intro cond p u w rn rd imm12 imm8 shamt kind rm s hc hd hm hn
  simp only [← writesBack_iff, ← loadSignedByte_eq, ← loadSignedHalf_eq, List.forall_mem_cons] at hn ⊢
  have imm := fun (load : State → Word → Word) (v : Word) =>
    loadTransfer_register (o := .imm v) hc hd rfl hn load u
  have reg := fun (load : State → Word → Word) (o : Offset) (ho : offsetIsPc o = (rm == 15)) =>
    loadTransfer_register hc hd (ho.trans (beq_false_of_ne hm)) hn load u
  exact ⟨imm loadWord _, reg loadWord (.shifted shamt kind rm) rfl, imm loadByte _,
    reg loadByte (.shifted shamt kind rm) rfl, imm loadHalf _, reg loadHalf (.plain rm) rfl,
    imm loadSignedByte _, reg loadSignedByte (.plain rm) rfl, imm loadSignedHalf _,
    reg loadSignedHalf (.plain rm) rfl, List.forall_mem_nil _⟩

/-- Settles O15: the composition, and the zero extension of the narrow reads. -/
theorem bigEndianReads : Obligations.BigEndianReads := fun s a =>
  ⟨load16_toNat s a, load32_toNat s a, BitVec.toNat_setWidth_of_le (by decide),
    BitVec.toNat_setWidth_of_le (by decide), rfl⟩

/-- Settles O16: the bytes are the value's, in order, and the access reads the value back up to its own width. -/
theorem writeThenRead : Obligations.WriteThenRead := by
  refine fun s a v hw => ⟨fun hp => ⟨?_, ?_⟩, fun hp => ⟨?_, ?_, ?_⟩, fun hp => ⟨?_, ?_, ?_, ?_, ?_⟩⟩
  · exact load8_memWrite_first (sz := .byte) v hw hp
  · exact BitVec.eq_of_toNat_eq <| (memRead_memWrite_toNat (sz := .byte) v hw hp).trans
      (Nat.and_two_pow_sub_one_eq_mod v.toNat 8).symm
  · exact load8_memWrite_first (sz := .half) v hw hp
  · exact load8_memWrite (sz := .half) v hw hp 1 (by decide)
  · exact BitVec.eq_of_toNat_eq <| (memRead_memWrite_toNat (sz := .half) v hw hp).trans
      (Nat.and_two_pow_sub_one_eq_mod v.toNat 16).symm
  · exact load8_memWrite_first (sz := .word) v hw hp
  · exact load8_memWrite (sz := .word) v hw hp 1 (by decide)
  · exact load8_memWrite (sz := .word) v hw hp 2 (by decide)
  · exact load8_memWrite (sz := .word) v hw hp 3 (by decide)
  · exact BitVec.eq_of_toNat_eq <| (memRead_memWrite_toNat (sz := .word) v hw hp).trans (Nat.mod_eq_of_lt v.isLt)

/-- Settles O17: each read is a field of the stored word, whose value is computed. -/
theorem mixedWidthReads : Obligations.MixedWidthReads := by
  intro s a hw hp
  refine ⟨?_, ?_, ?_, ?_, ?_⟩
  · exact congrArg (BitVec.setWidth 32) (load8_memWrite_first (sz := .word) _ hw hp)
  · exact congrArg (BitVec.setWidth 32) (load8_memWrite (sz := .word) _ hw hp 3 (by decide))
  · exact congrArg (BitVec.setWidth 32) (load16_memWrite_first (sz := .word) _ hw hp (by decide))
  · exact congrArg (BitVec.setWidth 32) (load16_memWrite (sz := .word) _ hw hp 2 (by decide))
  · exact congrArg (BitVec.setWidth 32) (load16_memWrite (sz := .word) _ hw hp 1 (by decide))

/-- Settles O18: the frame of a store, and the canonical form every byte store keeps. -/
theorem storesTouchOnlyTheirBytes : Obligations.StoresTouchOnlyTheirBytes := fun s a sz v =>
  ⟨frame_memWrite s a sz v, memWrite_pc s a sz v, memWrite_cpsr s a sz v, memWrite_wf s a sz v⟩

/-- Settles O19: byte by byte, such a store changes nothing. -/
theorem accessesOutsidePlainMemory : Obligations.AccessesOutsidePlainMemory := by
  refine fun s a => ⟨load8_unmapped, fun sz v h => ?_⟩
  rw [memWrite_eq]
  exact storeBytes_eq_self (sz.split v) s a (by simpa using h)

end
end

section
/-! PROOFS. The encoder and the two decoders: decoding an encoding's bytes gives the instruction back (R90 to R132), and
the words that are no instruction's (R94, R131). -/

namespace Sys2Proof

/-! ## Codes and their bytes (R62, R64, R66) -/

/-- R62, R64: the bytes of a half-word compose to it. -/
theorem composeHalf_split (h : Half) : composeHalf (bits h 15 8) (bits h 7 0) = h := by
  rw [composeHalf, bits_eq h 15 8 rfl, bits_eq h 7 0 rfl]
  exact (BitVec.extractLsb'_append_extractLsb'_eq_extractLsb' (by rfl)).trans (by simp)

/-- R62, R64: the bytes of a word compose to it. -/
theorem composeWord_split (w : Word) :
    composeWord (composeHalf (bits w 31 24) (bits w 23 16)) (composeHalf (bits w 15 8) (bits w 7 0)) = w := by
  simp only [composeWord, composeHalf, bits_eq w 31 24 rfl, bits_eq w 23 16 rfl, bits_eq w 15 8 rfl, bits_eq w 7 0 rfl]
  rw [BitVec.extractLsb'_append_extractLsb'_eq_extractLsb' (by rfl),
    BitVec.extractLsb'_append_extractLsb'_eq_extractLsb' (by rfl)]
  exact (BitVec.extractLsb'_append_extractLsb'_eq_extractLsb' (by rfl)).trans (by simp)

/-- R90: whether a code is the compressed decoder's, as CPSR.T says it. -/
def Code.isHalf : Code → Bool
  | .wide _ => false
  | .half _ => true

theorem isHalf_encode (i : Instr) : (encode i).isHalf = !i.isWide := by cases i <;> rfl

/-- R66, R90: the decoder of the code's width reads the code's bytes as the code, and leaves what follows. -/
theorem decode_bytes_append (c : Code) (rest : List Byte) :
    decode c.isHalf (c.bytes ++ rest) = .ok (c.decode, rest) := by
  cases c with
  | wide w => exact congrArg (fun v => Except.ok (decodeWide v, rest)) (composeWord_split w)
  | half h => exact congrArg (fun v => Except.ok (decodeCompressed v, rest)) (composeHalf_split h)

/-! ## Round trip (R90 to R132) -/

open Laws.RoundTrip in
/-- Decoding inverts encoding: one lemma of Laws/PerInstr for each constructor, in the opcode table's order. -/
theorem decode_encode (i : Instr) : Statement i := by
  cases i
  exacts [bx _ _, swi _ _, b _ _, bl _ _, ldrImm _ _ _ _ _ _ _, ldrReg _ _ _ _ _ _ _ _ _, strImm _ _ _ _ _ _ _,
    strReg _ _ _ _ _ _ _ _ _, ldrbImm _ _ _ _ _ _ _, ldrbReg _ _ _ _ _ _ _ _ _, strbImm _ _ _ _ _ _ _,
    strbReg _ _ _ _ _ _ _ _ _, ldm _ _ _ _ _ _ _, stm _ _ _ _ _ _ _, swp _ _ _ _, swpb _ _ _ _, ldrhImm _ _ _ _ _ _ _,
    ldrhReg _ _ _ _ _ _ _, strhImm _ _ _ _ _ _ _, strhReg _ _ _ _ _ _ _, ldrsbImm _ _ _ _ _ _ _,
    ldrsbReg _ _ _ _ _ _ _, ldrshImm _ _ _ _ _ _ _, ldrshReg _ _ _ _ _ _ _, mul _ _ _ _ _ _, mla _ _ _ _ _ _,
    umull _ _ _ _ _ _, umlal _ _ _ _ _ _, smull _ _ _ _ _ _, smlal _ _ _ _ _ _, mulhalf _ _ _ _ _ _ _, mrs _ _ _,
    msrReg _ _ _ _, msrImm _ _ _ _ _, andImm _ _ _ _ _ _, andShiftImm _ _ _ _ _ _ _, andShiftReg _ _ _ _ _ _ _,
    eorImm _ _ _ _ _ _, eorShiftImm _ _ _ _ _ _ _, eorShiftReg _ _ _ _ _ _ _, subImm _ _ _ _ _ _,
    subShiftImm _ _ _ _ _ _ _, subShiftReg _ _ _ _ _ _ _, rsbImm _ _ _ _ _ _, rsbShiftImm _ _ _ _ _ _ _,
    rsbShiftReg _ _ _ _ _ _ _, addImm _ _ _ _ _ _, addShiftImm _ _ _ _ _ _ _, addShiftReg _ _ _ _ _ _ _,
    adcImm _ _ _ _ _ _, adcShiftImm _ _ _ _ _ _ _, adcShiftReg _ _ _ _ _ _ _, sbcImm _ _ _ _ _ _,
    sbcShiftImm _ _ _ _ _ _ _, sbcShiftReg _ _ _ _ _ _ _, rscImm _ _ _ _ _ _, rscShiftImm _ _ _ _ _ _ _,
    rscShiftReg _ _ _ _ _ _ _, tstImm _ _ _ _ _ _, tstShiftImm _ _ _ _ _ _ _, tstShiftReg _ _ _ _ _ _ _,
    teqImm _ _ _ _ _ _, teqShiftImm _ _ _ _ _ _ _, teqShiftReg _ _ _ _ _ _ _, cmpImm _ _ _ _ _ _,
    cmpShiftImm _ _ _ _ _ _ _, cmpShiftReg _ _ _ _ _ _ _, cmnImm _ _ _ _ _ _, cmnShiftImm _ _ _ _ _ _ _,
    cmnShiftReg _ _ _ _ _ _ _, orrImm _ _ _ _ _ _, orrShiftImm _ _ _ _ _ _ _, orrShiftReg _ _ _ _ _ _ _,
    movImm _ _ _ _ _ _, movShiftImm _ _ _ _ _ _ _, movShiftReg _ _ _ _ _ _ _, bicImm _ _ _ _ _ _,
    bicShiftImm _ _ _ _ _ _ _, bicShiftReg _ _ _ _ _ _ _, mvnImm _ _ _ _ _ _, mvnShiftImm _ _ _ _ _ _ _,
    mvnShiftReg _ _ _ _ _ _ _, undefined _, cLslImm _ _ _, cLsrImm _ _ _, cAsrImm _ _ _, cAddReg _ _ _,
    cAddImm3 _ _ _, cSubReg _ _ _, cSubImm3 _ _ _, cMovImm8 _ _, cCmpImm8 _ _, cAddImm8 _ _, cSubImm8 _ _, cAnd _ _,
    cEor _ _, cLslReg _ _, cLsrReg _ _, cAsrReg _ _, cAdc _ _, cSbc _ _, cRorReg _ _, cTst _ _, cNeg _ _, cCmp _ _,
    cCmn _ _, cOrr _ _, cMul _ _, cBic _ _, cMvn _ _, cAddHi _ _, cCmpHi _ _, cMovHi _ _, cBx _, cLdrPc _ _,
    cStrReg _ _ _, cStrbReg _ _ _, cLdrReg _ _ _, cLdrbReg _ _ _, cStrhReg _ _ _, cLdrsbReg _ _ _, cLdrhReg _ _ _,
    cLdrshReg _ _ _, cStrImm _ _ _, cLdrImm _ _ _, cStrbImm _ _ _, cLdrbImm _ _ _, cStrhImm _ _ _, cLdrhImm _ _ _,
    cStrSp _ _, cLdrSp _ _, cAddPc _ _, cAddSp _ _, cAddSpImm _, cSubSpImm _, cPush _ _, cPop _ _, cStmia _ _,
    cLdmia _ _, cBcond0 _ _, cBcond8 _ _, cBcondC _ _, cSwi _, cBkpt _, cB _, cBlh1 _, cBlh2 _, cUndefined]

theorem decode_bytes_encode {i : Instr} (h : i.wf = true) (rest : List Byte) :
    decode (!i.isWide) ((encode i).bytes ++ rest) = .ok (i, rest) := by
  rw [← isHalf_encode, decode_bytes_append, decode_encode i h]

/-! ## The wide words without an instruction (R94) -/

section Wide
variable (cond : Cond) (w : Word) {c : Cond}

theorem dpInstr_ne_undefined (op : DpOp) (sf : Bool) (rn rd : Reg) (o : Op2) :
    op.instr cond sf rn rd o ≠ .undefined c := by
  cases o <;> cases op <;> nofun

theorem decodeSingle_ne_undefined : decodeSingle cond w ≠ .undefined c := by
  unfold decodeSingle
  dsimp only
  split <;> cases SingleOp.ofBits (bit w 22) (bit w 20) <;> nofun

theorem decodeBlock_ne_undefined : decodeBlock cond w ≠ .undefined c := by
  unfold decodeBlock
  split <;> nofun

theorem decodeSwap_ne_undefined : decodeSwap cond w ≠ .undefined c := by
  unfold decodeSwap
  split <;> nofun

theorem decodeHalf_ne_undefined : decodeHalf cond w ≠ .undefined c := by
  unfold decodeHalf
  dsimp only
  split <;> cases HalfOp.ofBits (bits w 6 5) (bit w 20) <;> nofun

theorem decodeMultiply_ne_undefined : decodeMultiply cond w ≠ .undefined c := by
  unfold decodeMultiply
  cases MulOp.ofBits (bits w 23 21) <;> nofun

theorem decodePsrTransfer_ne_undefined : decodePsrTransfer cond w ≠ .undefined c := by
  unfold decodePsrTransfer
  dsimp only
  split
  · split <;> nofun
  · nofun

variable {w}

/-- Step 1 and steps 5 to 8 answer every word whose bits 27:26 are 00. -/
theorem decodeWide_low_ne_undefined (h27 : bit w 27 = false) (h26 : bit w 26 = false) :
    decodeWide w ≠ .undefined c := by
  by_cases hbx : (bits w 27 4 : BitVec 24) = 0x12FFF1#24
  · rw [decodeWide, if_pos hbx]
    nofun
  rw [decodeWide_low h27 h26 hbx]
  dsimp only
  split_ifs
  · exact decodeSwap_ne_undefined _ w
  · exact decodeHalf_ne_undefined _ w
  · exact decodeMultiply_ne_undefined _ w
  · nofun
  · exact decodePsrTransfer_ne_undefined _ w
  · exact dpInstr_ne_undefined _ _ _ _ _ _

/-- R94, bit by bit: step 9 is bits 27:26 = 11 without SWI's bits 25:24 = 11. -/
theorem decodeWide_undefined_iff :
    (∃ cond, decodeWide w = .undefined cond) ↔
      bit w 27 = true ∧ bit w 26 = true ∧ (bit w 25 && bit w 24) = false := by
  refine ⟨fun ⟨cond, hu⟩ => ?_, fun ⟨h27, h26, h⟩ => ⟨_, decodeWide_undefined h27 h26 h⟩⟩
  cases h27 : bit w 27 <;> cases h26 : bit w 26
  · exact absurd hu (decodeWide_low_ne_undefined h27 h26)
  · rw [decodeWide_single h27 h26] at hu
    exact absurd hu (decodeSingle_ne_undefined _ w)
  · cases h25 : bit w 25
    · rw [decodeWide_block h27 h26 h25] at hu
      exact absurd hu (decodeBlock_ne_undefined _ w)
    · rw [decodeWide_branch h27 h26 h25] at hu
      split at hu <;> cases hu
  · refine ⟨rfl, rfl, eq_false_of_ne_true fun h => ?_⟩
    obtain ⟨h25, h24⟩ := Bool.and_eq_true_iff.1 h
    rw [decodeWide_swi h27 h26 h25 h24] at hu
    cases hu

end Wide

/-! ## The half-words without a format (R131) -/

theorem decodeFormat4_ne_undefined (h : Half) : decodeFormat4 h ≠ .cUndefined := by
  unfold decodeFormat4
  dsimp only
  split <;> nofun

/-- R110, R131: the three places of the dispatch that answer UNDEFINED; every format's own answer is an instruction. -/
theorem decodeCompressed_undefined_iff (h : Half) :
    decodeCompressed h = .cUndefined ↔
      ((bits h 15 13 : BitVec 3) = 0b101#3 ∧ bit h 12 = true ∧ (bits h 11 8 : BitVec 4) ≠ 0b0000#4 ∧
        (bits h 10 9 : BitVec 2) ≠ 0b10#2 ∧ (bits h 11 8 : BitVec 4) ≠ 0b1110#4) ∨
      ((bits h 15 13 : BitVec 3) = 0b110#3 ∧ bit h 12 = true ∧ (bits h 11 8 : BitVec 4) = 0b1110#4) ∨
      ((bits h 15 13 : BitVec 3) = 0b111#3 ∧ bit h 12 = false ∧ bit h 11 = true) := by
  simp only [decodeCompressed, decodeFormat1, decodeFormat2, decodeFormat3, decodeFormat4_ne_undefined, decodeFormat5,
    decodeFormat7, decodeFormat8, decodeFormat9, decodeFormat10, decodeFormat11, decodeFormat12, decodeFormat13,
    decodeFormat14, decodeFormat15, decodeFormat16, decodeFormat19, ite_eq_iff, reduceCtorEq, and_false, or_false,
    false_or, and_true, Bool.not_eq_true]
  generalize (bits h 15 13 : BitVec 3) = top
  have htop : ∀ top : BitVec 3, top = 0 ∨ top = 1 ∨ top = 2 ∨ top = 3 ∨ top = 4 ∨ top = 5 ∨ top = 6 ∨ top = 7 := by
    decide
  rcases htop top with rfl | rfl | rfl | rfl | rfl | rfl | rfl | rfl <;> simp

end Sys2Proof

section
open Sys2Proof

/-- Settles O1: the round trip of every constructor, read at T = 0. -/
theorem wideDecodeAfterEncode : Obligations.WideDecodeAfterEncode := by
  intro i rest hwf hw
  simpa [hw] using decode_bytes_encode hwf rest

/-- Settles O2: the round trip of every constructor, read at T = 1. -/
theorem compressedDecodeAfterEncode : Obligations.CompressedDecodeAfterEncode := by
  intro i rest hwf hw
  simpa [hw] using decode_bytes_encode hwf rest

/-- Settles O4: step 9 takes bits 27:26 = 11 but SWI's 1111, and both patterns say that bit by bit. -/
theorem wideUndefinedExactly : Obligations.WideUndefinedExactly := by
  intro w
  have h110 : (bits w 27 25 : BitVec 3) = 0b110#3 ↔ bit w 25 = false ∧ bit w 26 = true ∧ bit w 27 = true := run3 rfl
  have h1110 : (bits w 27 24 : BitVec 4) = 0b1110#4 ↔
      bit w 24 = false ∧ bit w 25 = true ∧ bit w 26 = true ∧ bit w 27 = true := run4 rfl
  rw [decodeWide_undefined_iff, ← bits_eq w 27 25 rfl, ← bits_eq w 27 24 rfl, h110, h1110]
  cases bit w 25 <;> simp [and_comm, and_assoc]

/-- Settles O5: both sides read the upper byte alone, and agree on its 256 values. -/
theorem compressedUndefinedExactly : Obligations.CompressedUndefinedExactly := by
  intro h
  have field : ∀ hi lo, hi < 8 → ∀ len, (bits h (8 + hi) (8 + lo) : BitVec len) = bits (bits h 15 8 : BitVec 8) hi lo :=
    fun hi lo hh _ => (bits_bits h 15 8 hi lo hh hh).symm
  have one : ∀ i < 8, bit h (8 + i) = bit (bits h 15 8 : BitVec 8) i := fun i hi => (bit_bits h 15 8 i hi hi).symm
  rw [decodeCompressed_undefined_iff, ← bits_eq h 15 12 rfl, ← bits_eq h 11 8 rfl, ← bits_eq h 15 8 rfl,
    ← bits_eq h 15 11 rfl, field 7 5 (by omega), field 3 0 (by omega), field 2 1 (by omega), field 7 4 (by omega),
    field 7 3 (by omega), one 4 (by omega), one 3 (by omega)]
  generalize (bits h 15 8 : BitVec 8) = f
  revert f
  decide

end
end

section
/-! PROOFS. The barrel shifter's rows in arithmetic terms (R144 to R151), the adder's overflow by signs (R160), and the
rotated immediate (R175). -/

namespace Sys2Proof.Machine

/-! ## The rows of the shifter (R145 to R150) -/

/-- R140: bit 31 of a word is its top bit. -/
theorem bit31_eq_msb (v : Word) : bit v 31 = v.msb := (BitVec.msb_eq_getLsbD_last v).symm

/-- R148: the fill, by the top bit. -/
theorem signFill_eq (v : Word) : signFill v = if v.msb then 0xFFFFFFFF else 0 := by
  rw [signFill, bit31_eq_msb]
  rfl

/-- R148: every bit of the fill is the top bit. -/
theorem getLsbD_signFill (v : Word) {i : Nat} (hi : i < 32) : (signFill v).getLsbD i = v.msb := by
  have hones : (BitVec.allOnes 32).getLsbD i = true := by rw [BitVec.getLsbD_allOnes, decide_eq_true hi]
  rw [signFill_eq]
  cases v.msb
  · exact BitVec.getLsbD_zero
  · exact hones

section Rows
variable (kind : ShiftKind) (v : Word) {n : Nat} (c : Bool)

/-- R151: the rows of amounts 1 to 31 are the same for both kinds of amount. -/
theorem shift_short (h1 : 1 ≤ n) (h31 : n ≤ 31) (r : Bool) : shift kind v n c r = shiftShort kind v n := by
  rw [shift, if_neg (by omega), if_pos (by omega)]

/-- R150, R151: the rows of amounts from 32 on. -/
theorem shift_long (h : 32 ≤ n) (r : Bool) : shift kind v n c r = shiftLong kind v n := by
  rw [shift, if_neg (by omega), if_neg (by omega)]

/-- R145: a left shift multiplies by the power of two. -/
theorem shiftShort_lsl : shiftShort .lsl v n = (BitVec.ofNat 32 (v.toNat * 2 ^ n), v.getLsbD (32 - n)) := by
  have hmul : v <<< n = BitVec.ofNat 32 (v.toNat * 2 ^ n) := by
    apply BitVec.eq_of_toNat_eq
    rw [BitVec.toNat_shiftLeft, BitVec.toNat_ofNat, Nat.shiftLeft_eq]
  exact Prod.ext hmul rfl

/-- R147: a logical right shift divides the unsigned number. -/
theorem shiftShort_lsr : shiftShort .lsr v n = (BitVec.ofNat 32 (v.toNat / 2 ^ n), v.getLsbD (n - 1)) := by
  have hdiv : v >>> n = BitVec.ofNat 32 (v.toNat / 2 ^ n) := by
    rw [← Nat.shiftRight_eq_div_pow, ← BitVec.toNat_ushiftRight, BitVec.ofNat_toNat, BitVec.setWidth_eq]
  exact Prod.ext hdiv rfl

/-- R148: filling the vacated bits with the sign is the arithmetic right shift, bit by bit. -/
theorem ushiftRight_or_signFill (h : n ≤ 32) : v >>> n ||| signFill v <<< (32 - n) = v.sshiftRight n := by
  apply BitVec.eq_of_getLsbD_eq
  intro i hi
  rw [BitVec.getLsbD_or, BitVec.getLsbD_ushiftRight, BitVec.getLsbD_shiftLeft, BitVec.getLsbD_sshiftRight]
  by_cases hkept : n + i < 32
  · simp [hi, hkept, show i < 32 - n by omega]
  · have hout : v.getLsbD (n + i) = false := BitVec.getLsbD_of_ge v _ (by omega)
    have hfill : (signFill v).getLsbD (i - (32 - n)) = v.msb := getLsbD_signFill v (by omega)
    simp [hi, hkept, show ¬i < 32 - n by omega, show ¬32 ≤ i by omega, hout, hfill]

/-- R148: an arithmetic right shift divides the signed number, rounding down. -/
theorem shiftShort_asr (h : n ≤ 32) :
    shiftShort .asr v n = (BitVec.ofInt 32 (v.toInt / 2 ^ n), v.getLsbD (n - 1)) := by
  have hdiv : v.sshiftRight n = BitVec.ofInt 32 (v.toInt / 2 ^ n) := by
    rw [BitVec.sshiftRight_eq, Int.shiftRight_eq_div_pow, Nat.cast_pow, Nat.cast_ofNat]
  exact Prod.ext ((ushiftRight_or_signFill v h).trans hdiv) rfl

/-- R149: the two shifted parts are the rotation. -/
theorem ushiftRight_or_shiftLeft (h : n < 32) : v >>> n ||| v <<< (32 - n) = v.rotateRight n := by
  rw [BitVec.rotateRight_def, Nat.mod_eq_of_lt h]

/-- R149: the rotation's carry is the last bit rotated out. -/
theorem shiftShort_ror (h : n < 32) : shiftShort .ror v n = (v.rotateRight n, v.getLsbD (n - 1)) :=
  Prod.ext (ushiftRight_or_shiftLeft v h) rfl

/-- R150: ASR by 32 or more is the fill alone. -/
theorem shiftLong_asr : shiftLong .asr v n = (if v.msb then 0xFFFFFFFF else 0, v.msb) :=
  Prod.ext (signFill_eq v) (bit31_eq_msb v)

/-- R150: rotations by 32 or more that are a multiple of 32. -/
theorem shiftLong_ror_multiple (h : n % 32 = 0) : shiftLong .ror v n = (v, v.msb) := by
  rw [shiftLong, if_pos h, bit31_eq_msb]

/-- R150: the other rotations by 32 or more. -/
theorem shiftLong_ror_other (h : n % 32 ≠ 0) :
    shiftLong .ror v n = (v.rotateRight (n % 32), v.getLsbD (n % 32 - 1)) := by
  rw [shiftLong, if_neg h, shiftShort_ror v (Nat.mod_lt n (by omega))]

/-- R150: beyond 32 nothing is left of a logically shifted value, and the carry is 0. -/
theorem shiftLong_lsl_lsr (h : 33 ≤ n) :
    shiftLong .lsl v n = (0, false) ∧ shiftLong .lsr v n = (0, false) := by
  have hn : n ≠ 32 := by omega
  constructor <;> rw [shiftLong, decide_eq_false hn, Bool.false_and]

/-- R146: the immediate rotation by 0 (RRX) brings the carry in from the left. -/
theorem shift_ror_zero :
    shift .ror v 0 c false = ((if c then 0x80000000 else 0) ||| v >>> 1, v.getLsbD 0) := by
  cases c <;> rfl

end Rows

/-! ## The adder's overflow by signs (R160) -/

/-- R160: the carry is set exactly when the unbounded sum has bit 32. -/
theorem addWithCarry_carry_iff (x y : Word) (c : Bool) :
    (addWithCarry x y c).2.1 = true ↔ 2 ^ 32 ≤ x.toNat + y.toNat + c.toNat := decide_eq_true_iff

/-- R160: overflow, in terms of the three top bits. -/
theorem addWithCarry_overflow_iff_msb (x y : Word) (c : Bool) :
    (addWithCarry x y c).2.2 = true ↔ x.msb = y.msb ∧ (addWithCarry x y c).1.msb ≠ x.msb := by
  rw [← bit31_eq_msb, ← bit31_eq_msb, ← bit31_eq_msb]
  exact Bool.and_eq_true_iff.trans (and_congr beq_iff_eq bne_iff_ne)

/-! ## The rotated immediate (R175) -/

/-- R175: the rotation as two shifts; twice a 4-bit field is at most 30. -/
theorem rotatedImm_eq (rot : BitVec 4) (imm : BitVec 8) :
    rotatedImm rot imm = (imm.setWidth 32 : Word) >>> (2 * rot.toNat) ||| imm.setWidth 32 <<< (32 - 2 * rot.toNat) := by
  have hrot : 2 * rot.toNat < 32 := by omega
  exact (ushiftRight_or_shiftLeft _ hrot).symm

/-- R175: a rotated immediate brings its own carry, bit 31 of the operand. -/
theorem operand2_imm_rotated {rot : BitVec 4} (h : rot ≠ 0) (imm : BitVec 8) (s : State) :
    operand2 (.imm rot imm) s = (rotatedImm rot imm, (rotatedImm rot imm).msb) := by
  rw [operand2, immOperand, if_neg h, bit31_eq_msb]

end Sys2Proof.Machine

section
open Sys2Proof Sys2Proof.Machine

/-- Settles O7: amount 0 and 32 by the definition, 1 to 31 and the amounts beyond by the arithmetic of their rows. -/
theorem shifterTable : Obligations.ShifterTable := by
  intro v c fill
  refine ⟨fun r => by cases r <;> rfl, Prod.ext rfl (bit31_eq_msb v), Prod.ext (signFill_eq v) (bit31_eq_msb v),
    shift_ror_zero v c, fun _ => rfl, fun n r h1 h31 => ?_, rfl, Prod.ext rfl (bit31_eq_msb v), fun n h33 _ => ?_,
    fun n h32 _ => ?_⟩
  · simp only [shift_short _ v c h1 h31]
    exact ⟨shiftShort_lsl v, shiftShort_lsr v, shiftShort_asr v (by omega), shiftShort_ror v (by omega)⟩
  · simp only [shift_long _ v c (show 32 ≤ n by omega)]
    exact shiftLong_lsl_lsr v h33
  · simp only [shift_long _ v c h32]
    exact ⟨shiftLong_asr v, shiftLong_ror_multiple v, shiftLong_ror_other v⟩

/-- Settles O8: the sum and its carry are the definition; the overflow by signs is the exact one. -/
theorem adderExact : Obligations.AdderExact := by
  intro x y cin r
  refine ⟨BitVec.toNat_ofNat _ _, addWithCarry_carry_iff x y cin, addWithCarry_overflow_iff_msb x y cin, ?_⟩
  rw [addWithCarry_overflow, ← addWithCarry_fst, decide_eq_true_iff]

/-- Settles O9: the adder on the complement is the exact difference; the complement turns equal signs into different
ones. -/
theorem subtractionByComplement : Obligations.SubtractionByComplement := by
  intro x y
  have hsub : ∀ c, (addWithCarry x (~~~y) c).1 = x - y - (1 - carryIn c) := fun c =>
    congrArg AluOut.result (ofAdder_sub x y c)
  have hdiff : (addWithCarry x (~~~y) true).1 = x - y := (hsub true).trans (BitVec.sub_zero _)
  obtain ⟨-, hcarry, -⟩ := AluOut.arith.inj (ofAdder_sub x y true)
  refine ⟨hdiff, ?_, ?_, hsub⟩
  · rw [hcarry, decide_eq_true_iff]
    exact Nat.succ_le_succ_iff
  · have hnot : (~~~y).msb = !y.msb := BitVec.msb_not
    rw [addWithCarry_overflow_iff_msb, hdiff, hnot, Bool.eq_not]

/-- Settles O10: a field of 0 passes the carry through, another rotates by less than 32. -/
theorem rotatedImmediate : Obligations.RotatedImmediate := by
  refine fun rot imm s => ⟨fun h => ?_, fun h => ?_⟩
  · rw [h]
    exact operand2_imm_zero imm s
  · rw [operand2_imm_rotated h, rotatedImm_eq]

end
end

section
/-! PROOFS. TST, TEQ, CMP and CMN with S clear (R197): the plain advance, whatever the condition. -/

namespace Sys2Proof.Machine

/-- R197: with the result discarded and S clear, nothing of data-processing is left but the advance, which a failed
condition makes too. -/
theorem dataProcessing_discarded (f : AluFn) (cond : Cond) (rn rd : Reg) (o : Op2) (s : State) :
    dataProcessing f false cond false rn rd o s = .next (s.advance 4) := by
  cases hc : conditionPassed cond s.cpsr with
  | false => exact whenPassed_false hc _
  | true => exact dataProcessing_passed f false rn o hc nofun

end Sys2Proof.Machine

section
open Sys2Proof Sys2Proof.Machine

/-- Settles O23: every constructor of the four runs the shared frame, which then only advances. -/
theorem comparesWithoutSDoNothing : Obligations.ComparesWithoutSDoNothing := by
  intro op cond rn rd o s hw
  have he : exec (op.instr cond false rn rd o) s = .next (s.advance 4) := by
    rw [exec_dpInstr, hw, dataProcessing_discarded]
  exact ⟨_, he, advance_pc s 4, advance_cpsr s 4, frame_advance s 4⟩

end
end

section
/-! PROOFS. The wide multiplies whose condition passes (R210 to R218), the operand combinations that are refused (R210,
R245, R250, R260, R261, R268, R271), and the two tags without a meaning (R217, R396). -/

namespace Sys2Proof.Machine

/-! ## Results and flags of the multiplies (R211 to R218) -/

/-- R210: r15 is none of the operands. -/
theorem namesPc_false {regs : List Reg} (h : ∀ r ∈ regs, r ≠ 15) : namesPc regs = false :=
  Bool.eq_false_iff.2 fun hp => h 15 (List.contains_iff_mem.1 hp) rfl

/-- R218: N is the result's top bit and Z says that it is 0; V stays. -/
theorem setMul_eq (p : Psr) (r : Word) (f : Nat) :
    p.setMul r f = { p with n := r.msb, z := decide (r = 0), c := Config.mulCarry f } := by
  rw [← bit31_eq_msb]
  rfl

/-- R218: the same of the 64 bits, with V free too. -/
theorem setMulLong_eq (p : Psr) (r : BitVec 64) (f : Nat) : p.setMulLong r f =
    { p with n := r.msb, z := decide (r = 0), c := Config.mulCarry f, v := Config.mulOverflow f } := by
  rw [BitVec.msb_eq_getLsbD_last]
  rfl

/-- R214: the unsigned product plus the old RdHi : RdLo, as a number. -/
theorem unsignedProduct_add_longAccumulator (a b : Word) (rd rn : Reg) (s : State) :
    unsignedProduct a b + longAccumulator rd rn s =
      BitVec.ofNat 64 (a.toNat * b.toNat + ((s.x rd).toNat * 2 ^ 32 + (s.x rn).toNat)) := by
  rw [unsignedProduct_eq, longAccumulator_eq, ← BitVec.ofNat_add]

/-- R216: the signed product plus the old RdHi : RdLo, as a number. -/
theorem signedProduct_add_longAccumulator (a b : Word) (rd rn : Reg) (s : State) :
    signedProduct a b + longAccumulator rd rn s =
      BitVec.ofInt 64 (a.toInt * b.toInt + ((s.x rd).toNat * 2 ^ 32 + (s.x rn).toNat : Nat)) := by
  rw [signedProduct_eq, longAccumulator_eq, BitVec.ofInt_add, BitVec.ofInt_natCast]

/-! ## Refused operands -/

/-- R210: a multiply's operands and destinations; MUL has no addend. -/
def multiplyRegs (op : MulOp) (rd rn rs rm : Reg) : List Reg :=
  match op with
  | .mul => [rd, rs, rm]
  | _ => [rd, rn, rs, rm]

/-- R210: where r15 may stand for the multiply to be refused. -/
theorem namesPc_multiplyRegs {op : MulOp} {rd rn rs rm : Reg}
    (h : rd = 15 ∨ rs = 15 ∨ rm = 15 ∨ (op ≠ .mul ∧ rn = 15)) : namesPc (multiplyRegs op rd rn rs rm) = true := by
  refine List.contains_iff_mem.2 ?_
  cases op with
  | mul => simpa [multiplyRegs, eq_comm] using h
  | mla | umull | umlal | smull | smlal =>
    have h' : rd = 15 ∨ rn = 15 ∨ rs = 15 ∨ rm = 15 := by tauto
    simpa [multiplyRegs, eq_comm] using h'

/-- R245: an offset register r15 is refused, whatever the base. -/
theorem transferGuard_pcOffset {o : Offset} (ho : offsetIsPc o = true) (p w : Bool) (rn : Reg) (body : Result) :
    transferGuard o p w rn body = .refused .pcOffset :=
  if_pos ho

/-- R245: write-back to r15 is refused. -/
theorem transferGuard_pcWriteback {o : Offset} {p w : Bool} (ho : offsetIsPc o = false) (hw : writesBack p w = true)
    (body : Result) : transferGuard o p w 15 body = .refused .pcWriteback := by
  rw [transferGuard, ho, hw]
  rfl

section
variable {cond : Cond} {s : State} (hc : conditionPassed cond s.cpsr = true)
include hc

/-- R210: every multiply is refused that names r15. -/
theorem exec_mulInstr_refused {op : MulOp} {rd rn rs rm : Reg} (h : namesPc (multiplyRegs op rd rn rs rm) = true)
    (sf : Bool) : exec (op.instr cond sf rd rn rs rm) s = .refused .pcInMultiply := by
  cases op <;> exact (whenPassed_true hc _).trans (if_pos h)

/-- R240: every single transfer with an immediate offset stands behind the guard. -/
theorem exec_singleImm_guard (op : SingleOp) (p u w : Bool) (rn rd : Reg) (imm : BitVec 12) :
    ∃ body, exec (op.instrImm cond p u w rn rd imm) s = transferGuard (.imm (imm.setWidth 32)) p w rn body := by
  cases op <;> exact ⟨_, whenPassed_true hc _⟩

/-- R240: every single transfer with a shifted register offset stands behind the guard. -/
theorem exec_singleReg_guard (op : SingleOp) (p u w : Bool) (rn rd : Reg) (shamt : BitVec 5) (kind : ShiftKind)
    (rm : Reg) : ∃ body, exec (op.instrReg cond p u w rn rd shamt kind rm) s =
      transferGuard (.shifted shamt kind rm) p w rn body := by
  cases op <;> exact ⟨_, whenPassed_true hc _⟩

/-- R250: every half-word or signed transfer with an immediate offset stands behind the guard. -/
theorem exec_halfImm_guard (op : HalfOp) (p u w : Bool) (rn rd : Reg) (imm : BitVec 8) :
    ∃ body, exec (op.instrImm cond p u w rn rd imm) s = transferGuard (.imm (imm.setWidth 32)) p w rn body := by
  cases op <;> exact ⟨_, whenPassed_true hc _⟩

/-- R250: every half-word or signed transfer with a register offset stands behind the guard. -/
theorem exec_halfReg_guard (op : HalfOp) (p u w : Bool) (rn rd rm : Reg) :
    ∃ body, exec (op.instrReg cond p u w rn rd rm) s = transferGuard (.plain rm) p w rn body := by
  cases op <;> exact ⟨_, whenPassed_true hc _⟩

/-- R260, R261: a swap is refused that names r15. -/
theorem swap_refused {rn rd rm : Reg} (h : rn = 15 ∨ rd = 15 ∨ rm = 15) (sz : Size) :
    swap sz cond rn rd rm s = .refused .pcInSwap := by
  refine (whenPassed_true hc _).trans (if_pos ?_)
  simpa only [Bool.or_eq_true, beq_iff_eq, or_assoc] using h

end

/-- R271: r15 is no base of a block load. -/
theorem blockLoad_pcBase (width : Word) (p u sb w : Bool) (rlist : BitVec 16) (s : State) :
    blockLoad width p u sb w 15 rlist s = .refused .pcBlockBase := by
  rw [blockLoad, if_pos rfl]

/-- R271: r15 is no base of a block store. -/
theorem blockStore_pcBase (width storedPc : Word) (p u sb w : Bool) (rlist : BitVec 16) (s : State) :
    blockStore width storedPc p u sb w 15 rlist s = .refused .pcBlockBase :=
  if_pos rfl

/-- R268: a User-bank load with write-back is refused. -/
theorem blockLoad_userBankWriteback {rn : Reg} {rlist : BitVec 16} (hn : rn ≠ 15) (h15 : rlist.getLsbD 15 = false)
    (width : Word) (p u : Bool) (s : State) :
    blockLoad width p u true true rn rlist s = .refused .userBankWriteback := by
  have hub : bit rlist 15 = false := h15
  rw [blockLoad, if_neg hn, hub]
  rfl

/-- R268: a User-bank store with write-back is refused. -/
theorem blockStore_userBankWriteback {rn : Reg} (hn : rn ≠ 15) (width storedPc : Word) (p u : Bool)
    (rlist : BitVec 16) (s : State) :
    blockStore width storedPc p u true true rn rlist s = .refused .userBankWriteback :=
  if_neg hn

end Sys2Proof.Machine

section
open Sys2Proof Sys2Proof.Machine

/-- Settles O25: both are the shared 32-bit multiply, each with its own result. -/
theorem shortMultiplies : Obligations.ShortMultiplies := by
  intro cond sf rd rn rs rm s hc hd hs hm leaves
  have short : ∀ {i : Instr} {regs : List Reg} {r : Word} {n : Nat}, exec i s = multiplyShort cond sf regs rd r s →
      (∀ k ∈ regs, k ≠ 15) → r.toNat = n % 2 ^ 32 → leaves i n := by
    intro i regs r n he hr hn
    obtain ⟨t, ht, hreg, hcpsr, hpc, hf⟩ := multiplyShort_spec sf regs rd r s hc (namesPc_false hr) hd
    subst hreg
    refine ⟨t, he.trans ht, hn, ?_, ?_, hpc, hf⟩
    · rintro rfl
      exact hcpsr
    · rintro rfl
      exact ⟨_, hcpsr.trans (setMul_eq ..)⟩
  refine ⟨short rfl (by simpa using ⟨hd, hs, hm⟩) (BitVec.toNat_mul _ _), fun hn => ?_⟩
  refine short rfl (by simpa using ⟨hd, hn, hs, hm⟩) ?_
  rw [BitVec.toNat_add, BitVec.toNat_mul, Nat.mod_add_mod]

/-- Settles O26: the four are the shared long multiply, each with its own 64 bits. -/
theorem longMultiplies : Obligations.LongMultiplies := by
  intro cond sf rd rn rs rm s hc hd hn hs hm acc ab sab
  simp only [List.forall_mem_cons]
  have long : ∀ {i : Instr} {r q : BitVec 64}, exec i s = multiplyLong cond sf rd rn rs rm r s → r = q →
      ∃ t, exec i s = .next t ∧ t.readSlot (s.here rd) = q.extractLsb' 32 32 ∧
        (rn ≠ rd → t.readSlot (s.here rn) = q.extractLsb' 0 32) ∧ (sf = false → t.cpsr = s.cpsr) ∧
        (sf = true → ∃ c v, t.cpsr = { s.cpsr with n := q.msb, z := decide (q = 0), c := c, v := v }) ∧
        t.pc = s.pc + 4 ∧ Frame s t [s.here rd, s.here rn] [] [] := by
    rintro i r _ he rfl
    have hr : namesPc [rd, rn, rs, rm] = false := namesPc_false (by simpa using ⟨hd, hn, hs, hm⟩)
    obtain ⟨t, ht, hhi, hlo, hcpsr, hpc, hf⟩ := multiplyLong_spec sf rd rn rs rm r s hc hr hd hn
    rw [bits_eq r 63 32 rfl] at hhi
    rw [bits_eq r 31 0 rfl] at hlo
    refine ⟨t, he.trans ht, hhi, hlo, ?_, ?_, hpc, hf⟩
    · rintro rfl
      exact hcpsr
    · rintro rfl
      exact ⟨_, _, hcpsr.trans (setMulLong_eq ..)⟩
  exact ⟨long rfl (unsignedProduct_eq ..), long rfl (unsignedProduct_add_longAccumulator ..),
    long rfl (signedProduct_eq ..), long rfl (signedProduct_add_longAccumulator ..), List.forall_mem_nil _⟩

/-- Settles O40: each combination meets the guard of its shared operation. -/
theorem refusedOperands : Obligations.RefusedOperands := by
  intro cond s hc
  refine ⟨fun op sf rd rn rs rm h => exec_mulInstr_refused hc (namesPc_multiplyRegs h) sf, ?_, ?_, ?_, ?_, ?_⟩
  · intro p u w rn rd shamt kind op h
    obtain ⟨_, hsingle⟩ := exec_singleReg_guard hc op p u w rn rd shamt kind 15
    obtain ⟨_, hhalf⟩ := exec_halfReg_guard hc h p u w rn rd 15
    exact ⟨hsingle.trans (transferGuard_pcOffset rfl ..), hhalf.trans (transferGuard_pcOffset rfl ..)⟩
  · intro p u w rd rm imm12 imm8 shamt kind op h hpw hm
    have hw := (writesBack_iff p w).2 hpw
    have hshift : offsetIsPc (.shifted shamt kind rm) = false := beq_false_of_ne hm
    have hplain : offsetIsPc (.plain rm) = false := beq_false_of_ne hm
    obtain ⟨_, hsi⟩ := exec_singleImm_guard hc op p u w 15 rd imm12
    obtain ⟨_, hsr⟩ := exec_singleReg_guard hc op p u w 15 rd shamt kind rm
    obtain ⟨_, hhi⟩ := exec_halfImm_guard hc h p u w 15 rd imm8
    obtain ⟨_, hhr⟩ := exec_halfReg_guard hc h p u w 15 rd rm
    exact ⟨hsi.trans (transferGuard_pcWriteback rfl hw _), hsr.trans (transferGuard_pcWriteback hshift hw _),
      hhi.trans (transferGuard_pcWriteback rfl hw _), hhr.trans (transferGuard_pcWriteback hplain hw _)⟩
  · exact fun rn rd rm h => ⟨swap_refused hc h .word, swap_refused hc h .byte⟩
  · exact fun p u sb w rlist => ⟨(whenPassed_true hc _).trans (blockLoad_pcBase 4 p u sb w rlist s),
      (whenPassed_true hc _).trans (blockStore_pcBase 4 _ p u sb w rlist s)⟩
  · exact fun p u rn rlist hn =>
      ⟨fun h15 => (whenPassed_true hc _).trans (blockLoad_userBankWriteback hn h15 4 p u s),
        (whenPassed_true hc _).trans (blockStore_userBankWriteback hn 4 _ p u rlist s)⟩

/-- Settles O27: both policies stand at `refuse`; only MULHALF has a condition. -/
theorem tagsWithoutMeaningRefuse : Obligations.TagsWithoutMeaningRefuse :=
  ⟨fun _ _ _ _ _ _ _ _ hc => whenPassed_true hc _, fun _ _ => rfl⟩

end
end

section
/-! PROOFS. Stores and swaps (R240 to R261) and block transfers (R265 to R271, R380 to R384) whose condition passes:
what each leaves in registers and memory. -/

namespace Sys2Proof.Machine

/-! ## Single stores and swaps (R240 to R261) -/

/-- R63: what a memory read answers is settled by the bytes. -/
theorem memRead_congr {s t : State} (h : ∀ a, t.load8 a = s.load8 a) (a : Word) (sz : Size) :
    t.memRead a sz = s.memRead a sz := by
  cases sz with
  | byte => exact congrArg (BitVec.setWidth 32) (h a)
  | half => exact congrArg (BitVec.setWidth 32) (load16_congr h a)
  | word => exact load32_congr h a

/-- R64: after the advance and a store, and whatever follows without touching memory, the access reads back as much of
the value as was stored. -/
theorem memRead_stored {s t : State} {width a v : Word} {sz : Size}
    (h : ∀ b, t.load8 b = ((s.advance width).memWrite a sz v).load8 b) (hw : s.mem.wf = true)
    (hp : s.plain (span a sz.bytes)) : (t.memRead a sz).toNat = v.toNat % 2 ^ (8 * sz.bytes) := by
  rw [memRead_congr h]
  exact memRead_memWrite_toNat v (by rwa [advance_mem]) (by rwa [State.plain, advance_bus])

/-- R242, R29: store data is the register, r15 as A + 12. -/
theorem storeData_eq (rd : Reg) (s : State) : storeData rd s = if rd = 15 then s.pc + 12 else s.x rd := by
  by_cases h : rd = 15
  · rw [if_pos h, h]
    exact reg_pc s 12
  · rw [if_neg h, x_eq s rd h]
    exact reg_eq s rd _ h

/-- R240, R242: a store whose condition passes and whose operands are not refused. -/
theorem storeTransfer_passed {cond : Cond} {s : State} {o : Offset} {p w : Bool} {rn : Reg}
    (hc : conditionPassed cond s.cpsr = true) (ho : offsetIsPc o = false) (hn : writesBack p w = true → rn ≠ 15)
    (sz : Size) (u : Bool) (rd : Reg) :
    let a := transferAddr p u (s.x rn) (offsetValue o s)
    ∃ t, storeTransfer sz cond p u w rn rd o s = .next t ∧
      (s.mem.wf = true → s.plain (span a sz.bytes) →
        (t.memRead a sz).toNat = (storeData rd s).toNat % 2 ^ (8 * sz.bytes)) ∧
      (writesBack p w = true → t.readSlot (s.here rn) = transferTarget u (s.x rn) (offsetValue o s)) ∧
      t.cpsr = s.cpsr ∧ t.pc = s.pc + 4 ∧
      Frame s t (if writesBack p w = true then [s.here rn] else []) [] (span a sz.bytes) := by
  intro a
  obtain ⟨hbase, hcpsr, hpc, hbytes, hf⟩ := store_state_spec s (writesBack p w) rn sz a (storeData rd s)
    (transferTarget u (s.x rn) (offsetValue o s)) hn
  exact ⟨_, (whenPassed_true hc _).trans (transferGuard_ok ho hn _), memRead_stored hbytes, hbase, hcpsr, hpc, hf⟩

/-- R260, R261: a swap that does not name r15 stores, then writes the word read before. -/
theorem swap_eq {cond : Cond} {s : State} {rn rd rm : Reg} (hc : conditionPassed cond s.cpsr = true)
    (hn : rn ≠ 15) (hd : rd ≠ 15) (hm : rm ≠ 15) (sz : Size) : swap sz cond rn rd rm s =
      .next (((s.advance 4).memWrite (s.x rn) sz (s.x rm)).setX rd (s.memRead (s.x rn) sz)) := by
  have hguard : (rn == 15 || rd == 15 || rm == 15) = false := by
    rw [beq_false_of_ne hn, beq_false_of_ne hd, beq_false_of_ne hm]
    rfl
  rw [swap, whenPassed_true hc, hguard]
  rfl

/-- R260, R261: a store and then a register write leave both, and nothing else. -/
theorem swap_state_spec (s : State) {rd : Reg} (hd : rd ≠ 15) (a : Word) (sz : Size) (stored loaded : Word) :
    let t := ((s.advance 4).memWrite a sz stored).setX rd loaded
    t.readSlot (s.here rd) = loaded ∧
    (s.mem.wf = true → s.plain (span a sz.bytes) → (t.memRead a sz).toNat = stored.toNat % 2 ^ (8 * sz.bytes)) ∧
    t.cpsr = s.cpsr ∧ t.pc = s.pc + 4 ∧ Frame s t [s.here rd] [] (span a sz.bytes) := by
  refine ⟨?_, memRead_stored fun b => load8_setX _ rd loaded b, by simp, ?_, ?_⟩
  · simpa [State.here] using setX_readSlot_same ((s.advance 4).memWrite a sz stored) rd loaded hd
  · simp [setX_pc _ rd loaded hd]
  · simpa using ((frame_advance s 4).trans (frame_memWrite _ a sz stored)).trans (frame_setX _ rd loaded)

/-! ## The list of a block transfer (R265, R270) -/

/-- R270: an empty list transfers r15 alone. -/
theorem transferred_zero (i : Reg) : transferred 0 i ↔ i = 15 := by rw [transferred, if_pos rfl]

/-- R265: a register whose bit is set is transferred. -/
theorem transferred_of_listed {rlist : BitVec 16} {i : Reg} (h : rlist.getLsbD i.toNat = true) :
    transferred rlist i := by
  have h0 : rlist ≠ 0 := by
    rintro rfl
    simp at h
  rwa [transferred, if_neg h0]

/-- R270: the word of an empty list stands at the lowest address. -/
theorem blockAddr_zero (low : Word) : blockAddr low 0 15 = low := by simp [blockAddr]

/-- R265: the form IA. -/
theorem mem_blockForms_ia (base : Word) (rlist : BitVec 16) :
    (false, true, base, base + BitVec.ofNat 32 (4 * blockWords rlist)) ∈ blockForms base rlist :=
  List.mem_cons_self

/-- R265: the form DB. -/
theorem mem_blockForms_db (base : Word) (rlist : BitVec 16) :
    let n := BitVec.ofNat 32 (4 * blockWords rlist)
    (true, false, base - n, base - n) ∈ blockForms base rlist := by
  simp [blockForms]

/-- R270: with an empty list the base moves by 0x40 in all four forms. -/
theorem blockForms_zero (base : Word) : blockForms base 0 =
    [(false, true, base, base + 0x40), (true, true, base + 0x04, base + 0x40),
      (false, false, base - 0x3C, base - 0x40), (true, false, base - 0x40, base - 0x40)] := by
  have hda : base - 0x40 + 4 = base - 0x3C := by bv_omega
  rw [← hda]
  rfl

/-- R240, R265: what a write-back leaves, in the slots and the status word of the state the instruction began in. -/
theorem writeBase_spec {s v : State} {rn : Reg} (hcpsr : v.cpsr = s.cpsr) (hn : rn ≠ 15) (wb : Bool) (final : Word) :
    let t := v.writeBase wb rn final
    (wb = true → t.readSlot (s.here rn) = final) ∧ t.cpsr = s.cpsr ∧ t.pc = v.pc ∧
    Frame v t (if wb then [s.here rn] else []) [] [] := by
  have hhere : s.here rn = v.here rn := by rw [State.here, ← hcpsr]; rfl
  rw [hhere]
  exact ⟨fun hw => writeBase_readSlot v wb rn final hw hn, (writeBase_cpsr ..).trans hcpsr,
    writeBase_pc v wb rn final fun _ => hn, frame_writeBase v wb rn final⟩

/-! ## Block loads (R265, R266, R268) -/

/-- R265, R266, R269: what a block load through the current bank leaves, its branch aside: the listed registers loaded
from `low` up, the base moved to `final` unless it is listed, everything else as before. -/
structure BlockLoaded (s t : State) (w : Bool) (rn : Reg) (rlist : BitVec 16) (low final : Word) : Prop where
  regs : ∀ i, transferred rlist i → i ≠ 15 → t.readSlot (s.here i) = s.load32 (blockAddr low rlist i)
  base : w = true → ¬transferred rlist rn → t.readSlot (s.here rn) = final
  frame : Frame s t ((if w then [s.here rn] else []) ++ (transferredRegs rlist).map s.here) [] []

section BlockLoads
variable {s t : State} {p u w : Bool} {rn : Reg} {rlist : BitVec 16} {low final : Word}

/-- A branch or a return after a block load leaves what it loaded. -/
theorem BlockLoaded.of_frame {t' : State} (h : BlockLoaded s t w rn rlist low final) (hn : rn ≠ 15)
    (hf : Frame t t' [] [] []) : BlockLoaded s t' w rn rlist low final := by
  have hread : ∀ i : Reg, i ≠ 15 → t'.readSlot (s.here i) = t.readSlot (s.here i) := fun i hi =>
    hf.1 _ List.not_mem_nil (mt (here_eq_pcSlot s i).1 hi)
  exact ⟨fun i ht hi => (hread i hi).trans (h.regs i ht hi), fun hw hr => (hread rn hn).trans (h.base hw hr),
    by simpa using h.frame.trans hf⟩

/-- The words loaded, then the base written back where it is not listed. -/
theorem setLoaded_writeBase (hn : rn ≠ 15) (he : (p, u, low, final) ∈ blockForms (s.x rn) rlist) (width : Word) :
    let t := ((s.advance width).setLoaded false (loadList s (blockPlan p u (s.x rn) rlist))).writeBase
      (w && !(blockRegs rlist).contains rn) rn (blockFinal u (s.x rn) rlist)
    BlockLoaded s t w rn rlist low final ∧ t.cpsr = s.cpsr ∧ t.pc = s.pc + width := by
  obtain ⟨hlow, hfinal⟩ := mem_blockForms he
  obtain ⟨hregs, hcpsr, hpc, hf⟩ := setLoaded_blockPlan s width false p u (s.x rn) rlist
  rw [← hlow] at hregs
  rw [← hfinal]
  generalize (s.advance width).setLoaded false (loadList s (blockPlan p u (s.x rn) rlist)) = v at hregs hcpsr hpc hf ⊢
  have hwb : (w && !(blockRegs rlist).contains rn) = true ↔ w = true ∧ ¬transferred rlist rn := by
    rw [← mem_blockRegs]
    simp
  obtain ⟨hbase, hbcpsr, hbpc, hfb⟩ := writeBase_spec hcpsr hn (w && !(blockRegs rlist).contains rn) final
  refine ⟨⟨fun i ht hi => ?_, fun hw hr => hbase (hwb.2 ⟨hw, hr⟩), ?_⟩, hbcpsr, hbpc.trans hpc⟩
  · -- a listed register is not the base written back
    rw [hfb.1 _ ?_ (mt (here_eq_pcSlot s i).1 hi)]
    · exact hregs i ht hi
    · split_ifs with hb
      · rw [List.mem_singleton, here_inj]
        rintro rfl
        exact (hwb.1 hb).2 ht
      · exact List.not_mem_nil
  · refine (hf.trans hfb).mono (fun σ hσ => .inl ?_) (by simp) (by simp)
    rw [List.mem_append] at hσ ⊢
    refine hσ.symm.imp_left fun h => ?_
    split_ifs at h with hb
    · rwa [if_pos (hwb.1 hb).1]
    · simp at h

/-- R266, R268: a block load through the current bank: with r15 unlisted it ends there, with r15 listed it branches or,
with S set, returns. -/
theorem blockLoad_currentBank {sb : Bool} (hn : rn ≠ 15) (hsb : sb = true → rlist.getLsbD 15 = true)
    (he : (p, u, low, final) ∈ blockForms (s.x rn) rlist) (width : Word) :
    ∃ t, BlockLoaded s t w rn rlist low final ∧ t.cpsr = s.cpsr ∧ t.pc = s.pc + width ∧
      (¬transferred rlist 15 → blockLoad width p u sb w rn rlist s = .next t) ∧
      (transferred rlist 15 → blockLoad width p u sb w rn rlist s =
        if sb then t.exceptionReturn (s.load32 (blockAddr low rlist 15))
        else .next (t.branchTo (s.load32 (blockAddr low rlist 15)))) := by
  obtain ⟨hloaded, hcpsr, hpc⟩ := setLoaded_writeBase (w := w) hn he width
  obtain ⟨hlow, -⟩ := mem_blockForms he
  obtain ⟨hin, hout⟩ := lookup_loadList s p u (s.x rn) rlist 15
  have hub : (sb && !bit rlist 15) = false := by
    cases sb
    · rfl
    · exact congrArg (!·) (hsb rfl)
  have hret : (sb && bit rlist 15) = sb := by
    cases sb
    · rfl
    · exact hsb rfl
  refine ⟨_, hloaded, hcpsr, hpc, fun h => ?_, fun h => ?_⟩
  · unfold blockLoad
    simp only [hub, hout h]
    rw [if_neg hn]
    rfl
  · unfold blockLoad
    simp only [hub, hret, hin h, ← hlow]
    rw [if_neg hn]
    rfl

/-- R266: a block load with S clear. -/
theorem blockLoad_clearS (hn : rn ≠ 15) (he : (p, u, low, final) ∈ blockForms (s.x rn) rlist) (width : Word) :
    ∃ t, blockLoad width p u false w rn rlist s = .next t ∧ BlockLoaded s t w rn rlist low final ∧
      (transferred rlist 15 → t.pc = alignPc s.cpsr.t (s.load32 (blockAddr low rlist 15))) ∧
      (¬transferred rlist 15 → t.pc = s.pc + width) ∧ t.cpsr = s.cpsr := by
  obtain ⟨t, hloaded, hcpsr, hpc, hout, hin⟩ := blockLoad_currentBank (w := w) (sb := false) hn nofun he width
  by_cases h : transferred rlist 15
  · exact ⟨_, hin h, hloaded.of_frame hn (frame_branchTo t _), fun _ => by rw [branchTo_pc, hcpsr],
      fun h' => absurd h h', (branchTo_cpsr ..).trans hcpsr⟩
  · exact ⟨t, hout h, hloaded, fun h' => absurd h' h, fun _ => hpc, hcpsr⟩

end BlockLoads

/-! ## Block stores (R265, R267) -/

/-- R62: four bytes in a row that are those of `v` load as `v`. -/
theorem load32_eq_of_bytes {s : State} {a v : Word} (h : ∀ k (hk : k < 4),
    s.load8 (a + BitVec.ofNat 32 k) = (splitWord v)[k]'(by simpa [splitWord] using hk)) : s.load32 a = v := by
  have h0 : s.load8 a = bits v 31 24 := by simpa [splitWord] using h 0 (by decide)
  have h1 : s.load8 (a + 1) = bits v 23 16 := h 1 (by decide)
  have h2 : s.load8 (a + 2) = bits v 15 8 := h 2 (by decide)
  have h3 : s.load8 (a + 2 + 1) = bits v 7 0 := (congrArg s.load8 (BitVec.add_assoc a 2 1)).trans (h 3 (by decide))
  rw [State.load32, State.load16, State.load16, h0, h1, h2, h3]
  exact composeWord_split v

/-- R267: the words a block store writes, each listed register's at its address. -/
theorem storeList_blockPlan (s : State) (width : Word) (value : Reg → Word) (p u : Bool) (base : Word)
    (rlist : BitVec 16) :
    let low := blockStart p u base rlist
    let t := (s.advance width).storeList value (blockPlan p u base rlist)
    (s.mem.wf = true → s.plain (blockSpan low rlist) → ∀ i, transferred rlist i →
      t.load32 (blockAddr low rlist i) = value i) ∧
    t.cpsr = s.cpsr ∧ t.pc = s.pc + width ∧ Frame s t [] [] (blockSpan low rlist) := by
  intro low t
  obtain ⟨hcpsr, hpc, -, hf⟩ := storeList_frame value (s.advance width) (blockRegs rlist) low
  refine ⟨fun hw hp i hi => ?_, hcpsr.trans (advance_cpsr ..), hpc.trans (advance_pc ..), ?_⟩
  · refine load32_eq_of_bytes (storeList_read value (s.advance width) (blockRegs rlist) (nodup_blockRegs rlist) low
      (length_blockRegs_le rlist) (by rwa [advance_mem]) ?_ i _ ((mem_blockPlan p u base rlist i _).2 ⟨hi, rfl⟩))
    rwa [State.plain, advance_bus, blockRegs_eq]
  · rw [blockSpan, ← blockRegs_eq]
    exact (frame_advance s width).trans hf

/-- R267: with S clear a register other than r15 is stored as it was, the base included. -/
theorem blockStoreValue_clearS (storedPc : Word) (rn : Reg) (s : State) {i : Reg} (hi : i ≠ 15) :
    blockStoreValue storedPc false rn s i = s.readSlot (s.here i) := by
  have hx : s.x i = s.readSlot (s.here i) := x_eq s i hi
  rw [blockStoreValue, if_neg hi, ← hx]
  by_cases h : i = rn
  · rw [if_pos h, h]
  · exact if_neg h

/-- R265, R267: what a block store leaves that is not refused: each listed register's word at its address, the base
moved to `final` when written back, everything else as before. -/
theorem blockStore_next {s : State} {p u sb w : Bool} {rn : Reg} {rlist : BitVec 16} {low final : Word} (hn : rn ≠ 15)
    (hsw : ¬(sb = true ∧ w = true)) (he : (p, u, low, final) ∈ blockForms (s.x rn) rlist) (width storedPc : Word) :
    ∃ t, blockStore width storedPc p u sb w rn rlist s = .next t ∧
      (s.mem.wf = true → s.plain (blockSpan low rlist) → ∀ i, transferred rlist i →
        t.load32 (blockAddr low rlist i) = blockStoreValue storedPc sb rn s i) ∧
      (w = true → t.readSlot (s.here rn) = final) ∧
      t.cpsr = s.cpsr ∧ t.pc = s.pc + width ∧
      Frame s t (if w then [s.here rn] else []) [] (blockSpan low rlist) := by
  obtain ⟨hlow, hfinal⟩ := mem_blockForms he
  have hsw : ¬(sb && w) = true := by rwa [Bool.and_eq_true]
  have hx : blockStore width storedPc p u sb w rn rlist s = _ := (if_neg hn).trans (if_neg hsw)
  obtain ⟨hmem, hcpsr, hpc, hf⟩ :=
    storeList_blockPlan s width (blockStoreValue storedPc sb rn s) p u (s.x rn) rlist
  rw [← hlow] at hmem hf
  rw [← hfinal] at hx
  generalize (s.advance width).storeList _ (blockPlan p u (s.x rn) rlist) = v at hx hmem hcpsr hpc hf
  obtain ⟨hbase, hbcpsr, hbpc, hfb⟩ := writeBase_spec hcpsr hn w final
  refine ⟨v.writeBase w rn final, hx, fun hw hp i hi => ?_, hbase, hbcpsr, hbpc.trans hpc,
    by simpa using hf.trans hfb⟩
  rw [load32_congr (load8_writeBase v w rn final)]
  exact hmem hw hp i hi

/-! ## The compressed lists (R380, R381) -/

/-- R380: PUSH adds r14 as bit 14. -/
theorem flag_14 (r : Bool) : flag 16 r 14 = if r then 0x4000#16 else 0 := by cases r <;> rfl

/-- R381: POP adds r15 as bit 15. -/
theorem flag_15 (r : Bool) : flag 16 r 15 = if r then 0x8000#16 else 0 := by cases r <;> rfl

end Sys2Proof.Machine

section
open Sys2Proof Sys2Proof.Machine

/-- Settles O33: the six stores are the shared one, on their own offset and width. -/
theorem storesFromRegister : Obligations.StoresFromRegister := by
  intro cond p u w rn rd imm12 imm8 shamt kind rm s hc hm hn
  simp only [← writesBack_iff, ← storeData_eq, List.forall_mem_cons] at hn ⊢
  have imm := fun (sz : Size) (v : Word) => storeTransfer_passed (o := .imm v) hc rfl hn sz u rd
  have reg := fun (sz : Size) (o : Offset) (ho : offsetIsPc o = (rm == 15)) =>
    storeTransfer_passed hc (ho.trans (beq_false_of_ne hm)) hn sz u rd
  exact ⟨imm .word _, reg .word (.shifted shamt kind rm) rfl, imm .byte _, reg .byte (.shifted shamt kind rm) rfl,
    imm .half _, reg .half (.plain rm) rfl, List.forall_mem_nil _⟩

/-- Settles O34: both swaps are the shared one, at their width. -/
theorem swapExchanges : Obligations.SwapExchanges := by
  intro cond rn rd rm s hc hn hd hm
  simp only [List.forall_mem_cons]
  exact ⟨⟨_, swap_eq hc hn hd hm .word, swap_state_spec s hd ..⟩,
    ⟨_, swap_eq hc hn hd hm .byte, swap_state_spec s hd ..⟩, List.forall_mem_nil _⟩

/-- Settles O35: LDM is the shared block load in its wide width. -/
theorem loadMultiple : Obligations.LoadMultiple := by
  intro cond w rn rlist s hc hn e he
  obtain ⟨t, hx, hloaded, hin, hout, hcpsr⟩ := blockLoad_clearS (w := w) hn he 4
  exact ⟨t, (whenPassed_true hc _).trans hx, hloaded.regs, hloaded.base, hin, hout, hcpsr, hloaded.frame⟩

/-- Settles O36: the block load ends in an exception return, which finds the SPSR the step began with. -/
theorem loadMultipleReturns : Obligations.LoadMultipleReturns := by
  intro cond w rn rlist s hc hn h15 e he
  obtain ⟨t, hloaded, hcpsr, -, -, hin⟩ := blockLoad_currentBank (w := w) hn (fun _ => h15) he 4
  have hx : exec (.ldm cond e.1 e.2.1 true w rn rlist) s =
      t.exceptionReturn (s.load32 (blockAddr e.2.2.1 rlist 15)) :=
    (whenPassed_true hc _).trans (hin (transferred_of_listed h15))
  refine ⟨fun q hq => ?_, fun hm => hx.trans (exceptionReturn_none t _ (by rwa [hcpsr]))⟩
  have hspsr : t.spsrOf t.cpsr.mode = some q := by
    obtain ⟨-, hsaved, -⟩ := hloaded.frame
    rw [hcpsr, hsaved _ List.not_mem_nil, hq]
  obtain ⟨hq, hpc, hf⟩ := restore_spec t q (s.load32 (blockAddr e.2.2.1 rlist 15))
  obtain ⟨hregs, hbase, hframe⟩ := hloaded.of_frame hn hf
  exact ⟨_, hx.trans (exceptionReturn_some t _ hspsr), hregs, hbase, hpc, hq, hframe⟩

/-- Settles O38: STM is the shared block store in its wide width, with r15 as A + 12. -/
theorem storeMultiple : Obligations.StoreMultiple := by
  intro cond sb w rn rlist s hc hn hsw e he
  obtain ⟨t, hx, hrest⟩ := blockStore_next hn hsw he 4 (s.pc + 12)
  exact ⟨t, (whenPassed_true hc _).trans hx, hrest⟩

/-- Settles O39: the empty list's row of the general statements about LDM and STM. -/
theorem emptyListTable : Obligations.EmptyListTable := by
  intro cond w rn s hc hn e he
  have hforms : e ∈ blockForms (s.x rn) 0 := by rwa [blockForms_zero]
  constructor
  · obtain ⟨t, hx, -, hbase, hpc, -, hcpsr, hf⟩ := loadMultiple cond w rn 0 s hc hn e hforms
    have h15 : ∀ σ ∈ (transferredRegs 0).map s.here, σ = pcSlot := by simp [transferredRegs]
    rw [blockAddr_zero] at hpc
    refine ⟨t, hx, hpc ((transferred_zero 15).2 rfl), fun hw => hbase hw (mt (transferred_zero rn).1 hn), hcpsr,
      hf.mono (fun σ hσ => (List.mem_append.1 hσ).imp_right (h15 σ)) (List.Subset.refl _) (List.Subset.refl _)⟩
  · obtain ⟨t, hx, hmem, hrest⟩ := storeMultiple cond false w rn 0 s hc hn nofun e hforms
    refine ⟨t, hx, fun hw hp => ?_, hrest⟩
    have h := hmem hw hp 15 ((transferred_zero 15).2 rfl)
    rwa [blockAddr_zero] at h

/-- Settles O52: both are the wide block load IA with write-back, in the compressed width. -/
theorem compressedBlockLoads : Obligations.CompressedBlockLoads := by
  intro r rb rlist s
  simp only [← flag_15, List.forall_mem_cons]
  have load : ∀ {i : Instr} {rn : Reg} {list : BitVec 16}, rn ≠ 15 →
      exec i s = blockLoad 2 false true false true rn list s →
      let base := s.readSlot (s.here rn)
      ∃ t, exec i s = .next t ∧
        (∀ i, transferred list i → i ≠ 15 → t.readSlot (s.here i) = s.load32 (blockAddr base list i)) ∧
        (¬transferred list rn → t.readSlot (s.here rn) = base + BitVec.ofNat 32 (4 * blockWords list)) ∧
        (transferred list 15 → t.pc = alignPc s.cpsr.t (s.load32 (blockAddr base list 15))) ∧
        (¬transferred list 15 → t.pc = s.pc + 2) ∧ t.cpsr = s.cpsr ∧
        Frame s t (s.here rn :: (transferredRegs list).map s.here) [] [] := by
    intro i rn list hn hi base
    obtain ⟨t, hx, hloaded, hin, hout, hcpsr⟩ := blockLoad_clearS (w := true) hn (mem_blockForms_ia (s.x rn) list) 2
    rw [x_eq s rn hn] at hloaded hin
    exact ⟨t, hi.trans hx, hloaded.regs, hloaded.base rfl, hin, hout, hcpsr, hloaded.frame⟩
  exact ⟨load (by decide) rfl, load (lowReg_ne_pc rb) rfl, List.forall_mem_nil _⟩

/-- Settles O53: PUSH is the wide block store DB with write-back, STMIA the form IA, in the compressed width. -/
theorem compressedBlockStores : Obligations.CompressedBlockStores := by
  intro r rb rlist s
  simp only [← flag_14, List.forall_mem_cons]
  have store : ∀ {i : Instr} {p u : Bool} {rn : Reg} {list : BitVec 16} {low final : Word}, rn ≠ 15 →
      exec i s = blockStore 2 (Config.storedPc s.free) p u false true rn list s →
      (p, u, low, final) ∈ blockForms (s.readSlot (s.here rn)) list →
      ∃ t, exec i s = .next t ∧
        (s.mem.wf = true → s.plain (blockSpan low list) → ∀ i, transferred list i → i ≠ 15 →
          t.load32 (blockAddr low list i) = s.readSlot (s.here i)) ∧
        t.readSlot (s.here rn) = final ∧ t.cpsr = s.cpsr ∧ t.pc = s.pc + 2 ∧
        Frame s t [s.here rn] [] (blockSpan low list) := by
    intro i p u rn list low final hn hi he
    have he : (p, u, low, final) ∈ blockForms (s.x rn) list := by rwa [x_eq s rn hn]
    obtain ⟨t, hx, hmem, hbase, hrest⟩ := blockStore_next (sb := false) (w := true) hn nofun he 2
      (Config.storedPc s.free)
    refine ⟨t, hi.trans hx, fun hw hp j hj h15 => ?_, hbase rfl, hrest⟩
    rw [hmem hw hp j hj, blockStoreValue_clearS _ rn s h15]
  exact ⟨store (by decide) rfl (mem_blockForms_db ..), store (lowReg_ne_pc rb) rfl (mem_blockForms_ia ..),
    List.forall_mem_nil _⟩

end
end

section
/-! PROOFS. Branches and traps (R280 to R290, R333, R395, R410): the displacement of a branch as signed arithmetic, the
branch with link, the exchange and the exception entry. -/

namespace Sys2Proof.Machine

/-! ## Branches (R280 to R282, R333) -/

/-- R280, R390: a sign-extended offset shifted left by `k` is the word of `2^k` times the signed offset. -/
theorem signExtend_shiftLeft_eq_ofInt {n : Nat} (offset : BitVec n) (k : Nat) :
    (offset.signExtend 32 <<< k : Word) = BitVec.ofInt 32 (2 ^ k * offset.toInt) := by
  have hpow : BitVec.twoPow 32 k = BitVec.ofInt 32 ((2 ^ k : Nat) : Int) :=
    BitVec.eq_of_toNat_eq (by rw [BitVec.toNat_twoPow, BitVec.ofInt_natCast, BitVec.toNat_ofNat])
  rw [BitVec.shiftLeft_eq_mul_twoPow, hpow, BitVec.signExtend, ← BitVec.ofInt_mul, mul_comm, Nat.cast_pow, Nat.cast_ofNat]

/-- R280: the wide target, A + 8 plus four times the signed offset. -/
theorem branchTarget_wide (offset : BitVec 24) (s : State) :
    branchTarget Config.pcReadWide (offset.signExtend 32 <<< 2) s = s.pc + 8 + BitVec.ofInt 32 (4 * offset.toInt) :=
  congrArg (s.pc + 8 + ·) (signExtend_shiftLeft_eq_ofInt offset 2)

/-- R280: a branch moves the program counter and nothing else. -/
theorem branchTo_spec (s : State) (target : Word) :
    (s.branchTo target).pc = alignPc s.cpsr.t target ∧ (s.branchTo target).cpsr = s.cpsr ∧
    Frame s (s.branchTo target) [] [] [] :=
  ⟨branchTo_pc s target, branchTo_cpsr s target, frame_branchTo s target⟩

/-- R281, R401: a branch after a write of the link register leaves the link value in r14. -/
theorem setX_link_branchTo_spec (s : State) (link target : Word) :
    let t := (s.setX 14 link).branchTo target
    t.pc = alignPc s.cpsr.t target ∧ t.readSlot (s.here 14) = link ∧ t.cpsr = s.cpsr ∧ Frame s t [s.here 14] [] [] := by
  have h14 : (14 : Reg) ≠ 15 := by decide
  obtain ⟨hpc, hcpsr, hf⟩ := branchTo_spec (s.setX 14 link) target
  rw [setX_cpsr] at hpc hcpsr
  refine ⟨hpc, ?_, hcpsr, (frame_setX s 14 link).trans hf⟩
  rw [branchTo_readSlot _ _ (mt (here_eq_pcSlot s 14).1 h14)]
  exact setX_readSlot_same s 14 link h14

end Sys2Proof.Machine

section
open Sys2Proof Sys2Proof.Machine

/-- Settles O41: both branch to the target of R280; BL writes the link register first. -/
theorem wideBranches : Obligations.WideBranches := by
  intro cond offset s hc target
  have ht : target = alignPc s.cpsr.t (branchTarget Config.pcReadWide (offset.signExtend 32 <<< 2) s) :=
    congrArg (alignPc s.cpsr.t) (branchTarget_wide offset s).symm
  rw [ht]
  exact ⟨⟨_, whenPassed_true hc _, branchTo_spec s _⟩, ⟨_, whenPassed_true hc _, setX_link_branchTo_spec s _ _⟩⟩

/-- Settles O42: both are the shared exchange, each on its own read of the register. -/
theorem branchAndExchange : Obligations.BranchAndExchange := by
  intro cond r s hc
  simp only [List.forall_mem_cons]
  exact ⟨⟨_, whenPassed_true hc _, exchange_spec s _⟩, ⟨_, rfl, exchange_spec s _⟩, List.forall_mem_nil _⟩

/-- Settles O43: the four take the shared exception, each with its mode, vector and width; both vectors are word-aligned
addresses, which the alignment of R30 keeps. -/
theorem exceptionEntry : Obligations.ExceptionEntry := by
  intro cond c24 c8 s hc
  simp only [List.forall_mem_cons]
  exact ⟨⟨_, whenPassed_true hc _, takeException_spec s .svc 8 4 rfl⟩,
    ⟨_, whenPassed_true hc _, takeException_spec s .und 4 4 rfl⟩,
    ⟨_, rfl, takeException_spec s .svc 8 2 rfl⟩, ⟨_, rfl, takeException_spec s .und 4 2 rfl⟩, List.forall_mem_nil _⟩

end
end

section
/-! PROOFS. The compressed shifts and multiply (R301 to R325), the operations that change no flag (R330, R332, R370 to
R373), and the single loads and stores of the compressed formats (R340 to R348, R360 to R367). -/

namespace Sys2Proof.Machine

/-! ## Results and flags of formats 1 and 4 (R163, R301 to R303, R314 to R325) -/

/-- R163: N and Z of a logical result, C as given, V as before. -/
theorem setLogical_eq (p : Psr) (r : Word) (sc : Bool) :
    p.setLogical r sc = { p with n := r.msb, z := decide (r = 0), c := sc } := by
  rw [← bit31_eq_msb]
  rfl

/-- R301, R163: an instruction that commits the word `b.1` with the carry `b.2`. -/
theorem compressedAlu_mov_next {i : Instr} {rd : LowReg} {b : Word × Bool} {s : State}
    (hi : exec i s = compressedAlu aluMov true rd 0 b s) :
    ∃ t, exec i s = .next t ∧ t.readSlot (s.here (lowReg rd)) = b.1 ∧
      t.cpsr = { s.cpsr with n := b.1.msb, z := decide (b.1 = 0), c := b.2 } ∧
      t.pc = s.pc + 2 ∧ Frame s t [s.here (lowReg rd)] [] [] := by
  obtain ⟨hr, hcpsr, hpc, hf⟩ := aluCommit_spec 2 true true (lowReg rd) (.logical b.1) b.2 s fun _ => lowReg_ne_pc rd
  exact ⟨_, hi, hr rfl, hcpsr.trans (setLogical_eq ..), hpc, hf⟩

/-- R325, R218: the multiply commits its product as a logical result, with a free value as the carry. -/
theorem exec_cMul (rs rd : LowReg) (s : State) :
    exec (.cMul rs rd) s = compressedAlu aluMov true rd 0
      (s.xc (lowReg rd) * s.xc (lowReg rs), Config.mulCarry (s.advance 2).free) s :=
  rfl

/-! ## Addresses (R132, R300) -/

/-- R132: a zero-extended immediate shifted left by `k` is the word of `2^k` times its value. -/
theorem setWidth_shiftLeft_eq_ofNat {n : Nat} (imm : BitVec n) (k : Nat) :
    (imm.setWidth 32 <<< k : Word) = BitVec.ofNat 32 (2 ^ k * imm.toNat) := by
  apply BitVec.eq_of_toNat_eq
  rw [BitVec.toNat_shiftLeft, BitVec.toNat_setWidth, BitVec.toNat_ofNat, Nat.shiftLeft_eq, Nat.mod_mul_mod,
    Nat.mul_comm]

theorem scaled4_eq {n : Nat} (imm : BitVec n) : scaled4 imm = BitVec.ofNat 32 (4 * imm.toNat) :=
  setWidth_shiftLeft_eq_ofNat imm 2

theorem pcBase_eq (s : State) : pcBase s = (s.pc + 4) &&& 0xFFFFFFFC := congrArg (· &&& 0xFFFFFFFC#32) (xc_pc s)

theorem xc_sp (s : State) : s.xc 13 = s.readSlot (s.here 13) := xc_eq s 13 (by decide)

theorem addrReg_eq (rm rn : LowReg) (s : State) : addrReg rm rn s = s.x (lowReg rn) + s.x (lowReg rm) := by
  rw [addrReg, xc_lowReg, xc_lowReg]

theorem addrPc_eq (imm : BitVec 8) (s : State) :
    pcBase s + scaled4 imm = ((s.pc + 4) &&& 0xFFFFFFFC) + BitVec.ofNat 32 (4 * imm.toNat) := by
  rw [pcBase_eq, scaled4_eq]

theorem addrImm_eq (scale : Nat) (imm : BitVec 5) (rn : LowReg) (s : State) :
    addrImm scale imm rn s = s.x (lowReg rn) + BitVec.ofNat 32 (2 ^ scale * imm.toNat) := by
  rw [addrImm, xc_lowReg, setWidth_shiftLeft_eq_ofNat]

/-- R362, R363: a byte access does not scale its offset. -/
theorem addrImm_zero_eq (imm : BitVec 5) (rn : LowReg) (s : State) :
    addrImm 0 imm rn s = s.x (lowReg rn) + BitVec.ofNat 32 imm.toNat := by
  rw [addrImm_eq, pow_zero, one_mul]

/-- R364, R365: a half-word access. -/
theorem addrImm_one_eq (imm : BitVec 5) (rn : LowReg) (s : State) :
    addrImm 1 imm rn s = s.x (lowReg rn) + BitVec.ofNat 32 (2 * imm.toNat) :=
  addrImm_eq 1 imm rn s

/-- R360, R361: a word access. -/
theorem addrImm_two_eq (imm : BitVec 5) (rn : LowReg) (s : State) :
    addrImm 2 imm rn s = s.x (lowReg rn) + BitVec.ofNat 32 (4 * imm.toNat) :=
  addrImm_eq 2 imm rn s

theorem addrSp_eq (imm : BitVec 8) (s : State) :
    addrSp imm s = s.readSlot (s.here 13) + BitVec.ofNat 32 (4 * imm.toNat) := by
  rw [addrSp, xc_sp, scaled4_eq]

/-! ## Register writes, loads and stores without flags -/

section
variable {i : Instr} {s : State}

/-- R30, R330: an instruction that writes one register and no flag; r15 is a branch. -/
theorem setX_next {r : Reg} {v : Word} (hi : exec i s = .next ((s.advance 2).setX r v)) :
    ∃ t, exec i s = .next t ∧ (r ≠ 15 → t.readSlot (s.here r) = v ∧ t.pc = s.pc + 2) ∧
      (r = 15 → t.pc = alignPc s.cpsr.t v) ∧ t.cpsr = s.cpsr ∧ Frame s t [s.here r] [] [] :=
  ⟨_, hi, advance_setX_spec s 2 r v⟩

variable {rd : LowReg} {a : Word}

/-- R343: a compressed load writes what its access reads at its address. -/
theorem compressedLoad_next (load : State → Word → Word) (hi : exec i s = compressedLoad load rd a s) :
    ∃ t, exec i s = .next t ∧ t.readSlot (s.here (lowReg rd)) = load s a ∧ t.cpsr = s.cpsr ∧ t.pc = s.pc + 2 ∧
      Frame s t [s.here (lowReg rd)] [] [] := by
  obtain ⟨t, ht, hreg, -, hcpsr, hf⟩ := setX_next hi
  obtain ⟨hval, hpc⟩ := hreg (lowReg_ne_pc rd)
  exact ⟨t, ht, hval, hcpsr, hpc, hf⟩

/-- R341: a compressed store writes the register's low bytes at its address. -/
theorem compressedStore_next {sz : Size} (hi : exec i s = compressedStore sz rd a s) :
    ∃ t, exec i s = .next t ∧
      (s.mem.wf = true → s.plain (span a sz.bytes) →
        (t.memRead a sz).toNat = (s.x (lowReg rd)).toNat % 2 ^ (8 * sz.bytes)) ∧
      t.cpsr = s.cpsr ∧ t.pc = s.pc + 2 ∧ Frame s t [] [] (span a sz.bytes) := by
  rw [← xc_lowReg]
  exact ⟨_, hi, memRead_stored fun _ => rfl, by simp, by simp, (frame_advance s 2).trans (frame_memWrite _ a sz _)⟩

end

end Sys2Proof.Machine

section
open Sys2Proof Sys2Proof.Machine

/-- Settles O47: each commits the shifter's word and carry; a register amount is the register's low byte. -/
theorem compressedShiftResult : Obligations.CompressedShiftResult := by
  intro shamt rm rs rd s
  simp only [← xc_lowReg, ← toNat_lowByte, List.forall_mem_cons]
  have shifted := fun {i : Instr} {b : Word × Bool} => compressedAlu_mov_next (i := i) (rd := rd) (b := b) (s := s)
  exact ⟨shifted rfl, shifted rfl, shifted rfl, shifted rfl, shifted rfl, shifted rfl, shifted rfl,
    List.forall_mem_nil _⟩

/-- Settles O48: the product is committed as the shifts' results are, with a free carry. -/
theorem compressedMultiply : Obligations.CompressedMultiply := by
  intro rs rd s
  obtain ⟨t, ht, hr, hcpsr, hpc, hf⟩ := compressedAlu_mov_next (exec_cMul rs rd s)
  rw [← hr] at hcpsr
  rw [xc_lowReg, xc_lowReg] at hr
  exact ⟨t, _, ht, by rw [hr, BitVec.toNat_mul], hcpsr, hpc, hf⟩

/-- Settles O49: the six write one register each, with the value of their format. -/
theorem compressedFlaglessResult : Obligations.CompressedFlaglessResult := by
  intro rs rd ld i8 i7 s
  simp only [← pcBase_eq, ← xc_sp, ← scaled4_eq, List.forall_mem_cons]
  exact ⟨setX_next rfl, setX_next rfl, setX_next rfl, setX_next rfl, setX_next rfl, setX_next rfl,
    List.forall_mem_nil _⟩

/-- Settles O50: the ten loads are the shared one, on their own address and access. -/
theorem compressedLoads : Obligations.CompressedLoads := by
  intro rm rn rd i5 i8 s
  simp only [← addrPc_eq, ← addrReg_eq, ← addrImm_zero_eq, ← addrImm_one_eq, ← addrImm_two_eq, ← addrSp_eq,
    ← loadSignedByte_eq, ← loadSignedHalf_eq, List.forall_mem_cons]
  exact ⟨compressedLoad_next loadWord rfl, compressedLoad_next loadWord rfl, compressedLoad_next loadByte rfl,
    compressedLoad_next loadHalf rfl, compressedLoad_next loadSignedByte rfl, compressedLoad_next loadSignedHalf rfl,
    compressedLoad_next loadWord rfl, compressedLoad_next loadByte rfl, compressedLoad_next loadHalf rfl,
    compressedLoad_next loadWord rfl, List.forall_mem_nil _⟩

/-- Settles O51: the seven stores are the shared one, on their own address and width. -/
theorem compressedStores : Obligations.CompressedStores := by
  intro rm rn rd i5 i8 s
  simp only [← addrReg_eq, ← addrImm_zero_eq, ← addrImm_one_eq, ← addrImm_two_eq, ← addrSp_eq, List.forall_mem_cons]
  exact ⟨compressedStore_next rfl, compressedStore_next rfl, compressedStore_next rfl, compressedStore_next rfl,
    compressedStore_next rfl, compressedStore_next rfl, compressedStore_next rfl, List.forall_mem_nil _⟩

end
end

section
/-! PROOFS. The compressed branches (R390, R398, R400, R401) and the long-branch pair (R402). -/

namespace Sys2Proof.Machine

/-! ## Bit 0 of a branch target (R30, R402) -/

/-- R402: a displacement shifted left, by one or more, leaves bit 0 of the base. -/
theorem getLsbD_zero_add_shiftLeft (v w : Word) (k : Nat) : (v + w <<< (k + 1)).getLsbD 0 = v.getLsbD 0 := by
  rw [BitVec.getLsbD_add (by decide)]
  simp

/-- R30: the compressed alignment keeps an address whose bit 0 is clear. -/
theorem alignPc_compressed_of_even {v : Word} (h : v.getLsbD 0 = false) : alignPc true v = v := by
  change v &&& ~~~1#32 = v
  apply BitVec.eq_of_getLsbD_eq
  intro i hi
  rw [BitVec.getLsbD_and, BitVec.getLsbD_not, BitVec.getLsbD_one]
  rcases Nat.eq_zero_or_pos i with rfl | hpos
  · rw [h, Bool.false_and]
  · simp [hi, hpos.ne']

/-- R402: the pair's target has the bit 0 of the address it starts from. -/
theorem getLsbD_zero_longBranchTarget (hi lo : BitVec 11) (pc : Word) :
    (pc + 4 + BitVec.ofInt 32 (4096 * hi.toInt) + BitVec.ofNat 32 (2 * lo.toNat)).getLsbD 0 = pc.getLsbD 0 := by
  have hhi : BitVec.ofInt 32 (4096 * hi.toInt) = hi.signExtend 32 <<< 12 := (signExtend_shiftLeft_eq_ofInt hi 12).symm
  have hlo : BitVec.ofNat 32 (2 * lo.toNat) = lo.setWidth 32 <<< 1 := (setWidth_shiftLeft_eq_ofNat lo 1).symm
  rw [hhi, hlo, getLsbD_zero_add_shiftLeft, getLsbD_zero_add_shiftLeft]
  exact getLsbD_zero_add_shiftLeft pc 1 1

/-! ## The compressed branches (R390 to R401) -/

/-- R390, R398: a compressed branch goes to A + 4 plus twice the signed offset, and changes nothing else. -/
theorem compressedBranch_next {n : Nat} {i : Instr} {s : State} (offset : BitVec n)
    (hi : exec i s = compressedBranch (offset.signExtend 32 <<< 1) s) :
    ∃ t, exec i s = .next t ∧ t.pc = alignPc s.cpsr.t (s.pc + 4 + BitVec.ofInt 32 (2 * offset.toInt)) ∧
      t.cpsr = s.cpsr ∧ Frame s t [] [] [] := by
  have htarget : branchTarget Config.pcReadCompressed (offset.signExtend 32 <<< 1) s =
      s.pc + 4 + BitVec.ofInt 32 (2 * offset.toInt) :=
    congrArg (s.pc + 4 + ·) (signExtend_shiftLeft_eq_ofInt offset 1)
  rw [← htarget]
  exact ⟨_, hi, branchTo_spec s _⟩

theorem compressedCondBranch_passed {cond : Cond} {s : State} (hc : conditionPassed cond s.cpsr = true)
    (offset : BitVec 8) :
    compressedCondBranch cond offset s = compressedBranch (offset.signExtend 32 <<< 1) s := if_pos hc

/-- R400: the first half leaves A + 4 plus 4096 times the signed field in r14. -/
theorem cBlh1_next (offset : BitVec 11) (s : State) :
    ∃ t, exec (.cBlh1 offset) s = .next t ∧ t.pc = s.pc + 2 ∧
      t.readSlot (s.here 14) = s.pc + 4 + BitVec.ofInt 32 (4096 * offset.toInt) ∧
      t.cpsr = s.cpsr ∧ Frame s t [s.here 14] [] [] := by
  have hlink : branchTarget Config.pcReadCompressed (offset.signExtend 32 <<< 12) s =
      s.pc + 4 + BitVec.ofInt 32 (4096 * offset.toInt) :=
    congrArg (s.pc + 4 + ·) (signExtend_shiftLeft_eq_ofInt offset 12)
  obtain ⟨t, ht, hreg, -, hcpsr, hf⟩ := setX_next (i := .cBlh1 offset) (s := s) rfl
  obtain ⟨hval, hpc⟩ := hreg (by decide)
  exact ⟨t, ht, hpc, hval.trans hlink, hcpsr, hf⟩

/-- R401: the second half branches to r14 plus twice the field; the link is the next half-word with bit 0 set. -/
theorem cBlh2_next (imm : BitVec 11) (s : State) :
    ∃ t, exec (.cBlh2 imm) s = .next t ∧
      t.pc = alignPc s.cpsr.t (s.readSlot (s.here 14) + BitVec.ofNat 32 (2 * imm.toNat)) ∧
      t.readSlot (s.here 14) = (s.pc + 2) ||| 1 ∧ t.cpsr = s.cpsr ∧ Frame s t [s.here 14] [] [] := by
  have htarget : s.xc 14 + imm.setWidth 32 <<< 1 = s.readSlot (s.here 14) + BitVec.ofNat 32 (2 * imm.toNat) :=
    congrArg₂ (· + ·) (xc_eq s 14 (by decide)) (setWidth_shiftLeft_eq_ofNat imm 1)
  rw [← htarget]
  exact ⟨_, rfl, setX_link_branchTo_spec s _ _⟩

end Sys2Proof.Machine

section
open Sys2Proof Sys2Proof.Machine

/-- Settles O44: the three conditional rows and `cB` are the shared branch; the halves are R400's and R401's. -/
theorem compressedBranches : Obligations.CompressedBranches := by
  intro cond o8 o11 s
  refine ⟨fun hc => ?_, compressedBranch_next o11 rfl, cBlh1_next o11 s, cBlh2_next o11 s⟩
  have hpassed := compressedCondBranch_passed hc o8
  simp only [List.forall_mem_cons]
  exact ⟨compressedBranch_next o8 hpassed, compressedBranch_next o8 hpassed, compressedBranch_next o8 hpassed,
    List.forall_mem_nil _⟩

/-- Settles O45: the second half starts from the first one's r14; the target is even, so R30's alignment keeps it. -/
theorem longBranchPair : Obligations.LongBranchPair := by
  intro hi lo s ht hpc
  obtain ⟨s1, hexec1, hpc1, hr14, hcpsr1, hf1⟩ := cBlh1_next hi s
  obtain ⟨t, hexec2, hpc2, hlink, hcpsr2, hf2⟩ := cBlh2_next lo s1
  have hhere : s1.here 14 = s.here 14 := congrArg (fun p : Psr => slot p.mode 14) hcpsr1
  have heven := (getLsbD_zero_longBranchTarget hi lo s.pc).trans hpc
  have hnext : s.pc + 2 + 2 = s.pc + 4 := BitVec.add_assoc s.pc 2 2
  rw [hhere] at hpc2 hlink hf2
  rw [hcpsr1, ht, hr14, alignPc_compressed_of_even heven] at hpc2
  rw [hpc1, hnext] at hlink
  exact ⟨s1, t, hexec1, hexec2, hpc2, hlink, hcpsr2.trans hcpsr1, (hf1.trans hf2).mono (by simp) (by simp) (by simp)⟩

end
end
